-- ==== Sys2Proof/Word.lean ====
section
/-! DEFINITION. The word, byte and device-code types of the POINT 4 MARK 8 (spec/00_scope.md R7, R11). -/

namespace Sys2Proof

/-- A 16-bit word: an accumulator, a memory word, a word address (R20, R50). Bit `k` is the bit of weight `2^k`;
the manual's bit `n` is bit `15 - n` (R7). -/
abbrev Word := BitVec 16

/-- Half a word (R51). -/
abbrev Byte := BitVec 8

/-- A device code, 00 to 77 octal (R39). -/
abbrev DevCode := BitVec 6

/-- Device code 77, the processor itself (R39, R200). -/
abbrev cpuCode : DevCode := 0o77#6

end Sys2Proof
end

