-- ==== Sys2Proof/Config.lean ====
section
/-! DEFINITION. What the spec leaves to the implementation: the parameters of 93_implementation_defined.md section 4 as
plain data (a field of State, so that every statement holds for every value of them), and the free values. -/

namespace Sys2Proof

/-- The EIS operations whose first word is a parameter of the model: the four read from damaged figures (R92) and the
eighteen whose encoding is lost (R93, `ENC_*`). The fields a first word carries (the 5-bit subnum of VJSR, the 4-bit
displacement of IGETBYTE and IPUTBYTE) are part of the operation. -/
inductive ParamOp where
  | abinmultiply | bindivide | movewords | rmovwords
  | nybsl | nybsr | decadd | decsub | convert
  | vjsr (subnum : BitVec 5)
  | getbyte | putbyte | sgetbyte | sputbyte | xgetbyte | xputbyte | xsgetbyte | xsputbyte
  | igetbyte (disp : BitVec 4) | iputbyte (disp : BitVec 4)
  | xtranslate | trace
deriving DecidableEq, Repr

/-- The parametric part of the EIS opcode chart: first words and what each stands for (R92, R93; log 12). -/
abbrev EncTable := List (Word × ParamOp)

/-- What a first word stands for in the table. -/
def EncTable.op? (t : EncTable) (w : Word) : Option ParamOp := (t.find? fun e => e.1 == w).map (·.2)

/-- The first word of an operation in the table. -/
def EncTable.word? (t : EncTable) (op : ParamOp) : Option Word := (t.find? fun e => e.2 == op).map (·.1)

/-- The default table: the four readings of R92. No pattern of the eighteen lost encodings is known (N7). -/
def EncTable.default : EncTable :=
  [(0o170271#16, .abinmultiply), (0o170671#16, .bindivide), (0o174271#16, .movewords), (0o176271#16, .rmovwords)]

/-- MODE32K_DIRECT_HIGH (R56): what an address of 100000 or above means in 32K mode. -/
inductive HighAddress where
  | full16   -- all 16 bits address memory
  | mask15   -- bit 15 is dropped: the access goes to the low 32K
deriving DecidableEq, Repr

/-- INT_VECTOR_INDIRECT (R344): whether interrupt entry uses the word at location 1 as it stands or, in 32K mode, as an
indirect address word. -/
inductive VectorReading where
  | direct | indirect
deriving DecidableEq, Repr

/-- XTRANSLATE_TABLE_BASE (R312): where entry 0 of the translation table lies. -/
inductive TableBase where
  | atPc | afterPc
deriving DecidableEq, Repr

/-- LONG_EIS_INTERRUPT_POINTS (R326). -/
inductive LongPoints where
  | boundaryOnly | perIteration
deriving DecidableEq, Repr

/-- The parameters of the hardware and of the spec (R6; 93_implementation_defined.md section 4). No step changes them. -/
structure Config where
  /-- EIS_JUMPERS: jumpers W7 and W3 are in place (R230). -/
  eisJumpers : Bool
  /-- OCU_PRESENT: the Operator Control Unit is installed (R41). -/
  ocuPresent : Bool
  /-- PARITY_OPTION: the parity checker is installed (R353). -/
  parityOption : Bool
  /-- BATTERY_BACKUP: the battery backup unit is installed (R395). -/
  batteryBackup : Bool
  /-- MODE32K_DIRECT_HIGH (R56). -/
  highAddress : HighAddress
  /-- INT_VECTOR_INDIRECT (R344). -/
  vectorReading : VectorReading
  /-- XTRANSLATE_TABLE_BASE (R312). -/
  tableBase : TableBase
  /-- LONG_EIS_INTERRUPT_POINTS (R326). -/
  longPoints : LongPoints
  /-- ENC: the parametric EIS first words (R92, R93). -/
  enc : EncTable
  /-- The words of the MANIP PROM that APL copies to 177000 and up, as far as they are known (R393; the source gives none:
  a word not listed is `Config.promWord`). -/
  manipProm : List Word
  /-- Where MANIP starts, if it is known (R393; the source does not give it: otherwise `Config.promEntry`). -/
  manipEntry : Option Word
deriving DecidableEq, Repr

/-- The parameters State.reset has. DESIGN CHOICE (logs 6, 7, 9, 10, 11, 12, 28). -/
def Config.default : Config where
  eisJumpers := true
  ocuPresent := true
  parityOption := false
  batteryBackup := true
  highAddress := .full16
  vectorReading := .direct
  tableBase := .afterPc
  longPoints := .boundaryOnly
  enc := EncTable.default
  manipProm := []
  manipEntry := none

/-- A free 16-bit value: `unspecified_16` of R11. No body, so nothing can be proved of it; the argument is the draw
counter of State (log 13). -/
opaque Config.freeWord : Nat → BitVec 16

/-- A free bit: `unspecified_1` of R11 (log 13). -/
opaque Config.freeBit : Nat → Bool

/-- The words of the MANIP PROM, which the source does not give (R393, N19; log 28). -/
opaque Config.promWord : Nat → BitVec 16

/-- MANIP's entry address, which the source does not give (R393, N19; log 28). -/
opaque Config.promEntry : BitVec 16

end Sys2Proof
end

