-- ==== Sys2Proof/Syntax.lean ====
section
/-! DEFINITION. The abstract syntax: one constructor of `Instr` for each row of spec/opcode_table.json (R103). -/

namespace Sys2Proof

/-- An accumulator number (R20). -/
inductive Ac where
  | a0 | a1 | a2 | a3
deriving DecidableEq, Repr

/-- The index mode, field X (R82, R110). -/
inductive IndexMode where
  | pageZero   -- 00
  | relative   -- 01
  | baseA2     -- 10
  | baseA3     -- 11
deriving DecidableEq, Repr

/-- The address fields of a memory reference instruction (R82, R83): I, X and D. -/
structure MemRef where
  ind : Bool
  x : IndexMode
  d : BitVec 8
deriving DecidableEq, Repr

/-- The shift field SH (R86, R151). -/
inductive Shift where
  | none | left | right | swap
deriving DecidableEq, Repr

/-- The carry preselect field CY (R86, R141). -/
inductive CarryBase where
  | current | zero | one | complement
deriving DecidableEq, Repr

/-- The skip field SK (R86, R153). -/
inductive SkipTest where
  | never | skp | szc | snc | szr | snr | sez | sbn
deriving DecidableEq, Repr

/-- The fields of an arithmetic/logical instruction other than its opcode (R86). -/
structure AluFields where
  acs : Ac
  acd : Ac
  sh : Shift
  cy : CarryBase
  nl : Bool
  sk : SkipTest
deriving DecidableEq, Repr

/-- The control field of an input/output transfer (R85, R179 to R181). -/
inductive Ctrl where
  | none | s | c | p
deriving DecidableEq, Repr

/-- The instructions. The second word of a two-word instruction is its last argument (R80). In the bit instructions
`ind` is the `@` bit (R90). Accumulator fields that a rule calls ignored are kept, so that no bit of a word is lost. -/
inductive Instr where
  -- memory reference (R114 to R119)
  | jmp (m : MemRef) | jsr (m : MemRef) | isz (m : MemRef) | dsz (m : MemRef)
  | lda (ac : Ac) (m : MemRef) | sta (ac : Ac) (m : MemRef)
  -- arithmetic and logical (R143 to R150)
  | com (f : AluFields) | neg (f : AluFields) | mov (f : AluFields) | inc (f : AluFields)
  | adc (f : AluFields) | sub (f : AluFields) | add (f : AluFields) | and_ (f : AluFields)
  -- regular input/output (R172 to R185)
  | nio (ac : Ac) (f : Ctrl) (d : DevCode)
  | dia (ac : Ac) (f : Ctrl) (d : DevCode) | doa (ac : Ac) (f : Ctrl) (d : DevCode)
  | dib (ac : Ac) (f : Ctrl) (d : DevCode) | dob (ac : Ac) (f : Ctrl) (d : DevCode)
  | dic (ac : Ac) (f : Ctrl) (d : DevCode) | doc (ac : Ac) (f : Ctrl) (d : DevCode)
  | skpbn (ac : Ac) (d : DevCode) | skpbz (ac : Ac) (d : DevCode)
  | skpdn (ac : Ac) (d : DevCode) | skpdz (ac : Ac) (d : DevCode)
  -- device code 77 (R201 to R215)
  | nioCpu (ac : Ac) | inten (ac : Ac) | intds (ac : Ac) | niopCpu (ac : Ac)
  | reads (ac : Ac) (f : Ctrl) | doaCpu (ac : Ac) (f : Ctrl) | inta (ac : Ac) (f : Ctrl) | msko (ac : Ac) (f : Ctrl)
  | dicCpu (ac : Ac) (f : Ctrl) | iorst | halt (ac : Ac) (f : Ctrl)
  | skpbnCpu (ac : Ac) | skpbzCpu (ac : Ac) | skpdnCpu (ac : Ac) | skpdzCpu (ac : Ac)
  -- EIS immediate (R232 to R238)
  | slei (k : BitVec 8) | sgri (k : BitVec 8) | seqi (k : BitVec 8) | snei (k : BitVec 8)
  | ldi (k : BitVec 8) | adi (k : BitVec 8) | sbi (k : BitVec 8)
  -- EIS bit manipulation and test (R240 to R250)
  | clrb (ind : Bool) (mask : Word) | setb (ind : Bool) (mask : Word) | togb (ind : Bool) (mask : Word)
  | sbz (ind : Bool) (mask : Word) | sbo (ind : Bool) (mask : Word)
  | sbzc (ind : Bool) (mask : Word) | sboc (ind : Bool) (mask : Word)
  | sbzs (ind : Bool) (mask : Word) | sbos (ind : Bool) (mask : Word)
  | sbzt (ind : Bool) (mask : Word) | sbot (ind : Bool) (mask : Word)
  -- EIS stack (R262 to R270)
  | setsp (ac : Ac) | redsp (ac : Ac) | push (ac : Ac) | pop (ac : Ac)
  | pushjump (address : Word) | rpushjump (disp : Word) | i2pushjump (disp : Word) | i3pushjump (disp : Word)
  | popjump
  -- EIS load and store, table search, multiply and divide, block move (R288, R289, R320 to R324)
  | xload | xstore | tablsearch | abinmultiply | bindivide | movewords | rmovwords
  -- a word of the NOP-skip space that is no documented extended instruction, with EIS = 1 (R94)
  | eisUnassigned (w : Word)
  -- the extended instructions whose encoding is lost (R93)
  | nybsl | nybsr | decadd | decsub | convert
  | vjsr (subnum : BitVec 5)
  | getbyte | putbyte | sgetbyte | sputbyte | xgetbyte | xputbyte | xsgetbyte | xsputbyte
  | igetbyte (disp : BitVec 4) | iputbyte (disp : BitVec 4)
  | xtranslate
  | trace (address : Word)
deriving DecidableEq, Repr

/-- The instruction a parametric first word stands for, with the word that follows it in memory (only TRACE has one). -/
def ParamOp.toInstr (op : ParamOp) (second : Word) : Instr :=
  match op with
  | .abinmultiply => .abinmultiply
  | .bindivide => .bindivide
  | .movewords => .movewords
  | .rmovwords => .rmovwords
  | .nybsl => .nybsl
  | .nybsr => .nybsr
  | .decadd => .decadd
  | .decsub => .decsub
  | .convert => .convert
  | .vjsr n => .vjsr n
  | .getbyte => .getbyte
  | .putbyte => .putbyte
  | .sgetbyte => .sgetbyte
  | .sputbyte => .sputbyte
  | .xgetbyte => .xgetbyte
  | .xputbyte => .xputbyte
  | .xsgetbyte => .xsgetbyte
  | .xsputbyte => .xsputbyte
  | .igetbyte d => .igetbyte d
  | .iputbyte d => .iputbyte d
  | .xtranslate => .xtranslate
  | .trace => .trace second

/-- How many words an instruction occupies (R80, R95): two for the eleven bit instructions, the four PUSHJUMP forms and
TRACE, one for every other. -/
def Instr.words : Instr → Nat
  | .clrb _ _ | .setb _ _ | .togb _ _ | .sbz _ _ | .sbo _ _ | .sbzc _ _ | .sboc _ _ | .sbzs _ _ | .sbos _ _
  | .sbzt _ _ | .sbot _ _ => 2
  | .pushjump _ | .rpushjump _ | .i2pushjump _ | .i3pushjump _ => 2
  | .trace _ => 2
  | _ => 1

end Sys2Proof
end

