-- ==== Sys2Proof/WellFormed.lean ====
section
/-! DEFINITION. Which instructions exist: the checks the encoding puts on the abstract syntax (R85 to R94). -/

namespace Sys2Proof

/-- The NOP-skip space: a one in the most significant bit and 1001 in the four least significant bits (R87). -/
def nopSkipWord (w : Word) : Bool := w &&& 0o100017#16 == 0o100011#16

/-- The match and mask of every extended instruction whose first word is firm (R89 to R92); the rest are parameters. -/
def firmEisRows : List (Word × Word) :=
  [ -- R89, format EI
    (0o100011#16, 0o140077#16), (0o100031#16, 0o140077#16), (0o100051#16, 0o140077#16), (0o100071#16, 0o140077#16),
    (0o140011#16, 0o140077#16), (0o140031#16, 0o140077#16), (0o140051#16, 0o140077#16),
    -- R90, format EB
    (0o140471#16, 0o175777#16), (0o141071#16, 0o175777#16), (0o141471#16, 0o175777#16), (0o150071#16, 0o175777#16),
    (0o154071#16, 0o175777#16), (0o150471#16, 0o175777#16), (0o154471#16, 0o175777#16), (0o151071#16, 0o175777#16),
    (0o155071#16, 0o175777#16), (0o151471#16, 0o175777#16), (0o155471#16, 0o175777#16),
    -- R91, format ES
    (0o142171#16, 0o163777#16), (0o140171#16, 0o163777#16), (0o162171#16, 0o163777#16), (0o160171#16, 0o163777#16),
    -- R92, format EX
    (0o140271#16, 0o177777#16), (0o142271#16, 0o177777#16), (0o142671#16, 0o177777#16), (0o143271#16, 0o177777#16),
    (0o143671#16, 0o177777#16), (0o154271#16, 0o177777#16), (0o156271#16, 0o177777#16), (0o164271#16, 0o177777#16) ]

/-- Does the word match a firm row of the extended set? -/
def firmEisWord (w : Word) : Bool := firmEisRows.any fun r => w &&& r.2 == r.1

/-- A table of parametric first words is well formed: each lies in the NOP-skip space, none collides with a firm row or
with another (R290, R313: "none may collide with a pattern of 30_encoding.md rules R89 to R92"). -/
def EncTable.wf (t : EncTable) : Bool :=
  (t.all fun e => nopSkipWord e.1 && !firmEisWord e.1) && decide (t.map (·.1)).Nodup

/-- A word of the NOP-skip space that is no extended instruction under the table (R94). -/
def unassignedWord (t : EncTable) (w : Word) : Bool := nopSkipWord w && !firmEisWord w && (t.op? w).isNone

/-- An arithmetic/logical instruction with EIS as given: with EIS = 1 the NOP-skip combination is not one (R154). -/
def AluFields.wf (eis : Bool) (f : AluFields) : Bool := !(eis && f.nl && f.sk == .skp)

/-- Is the operation in the table of parametric first words? -/
def EncTable.knows (t : EncTable) (op : ParamOp) : Bool := (t.word? op).isSome

/-- The instruction exists: it has an encoding that decodes to it, in the mode `eis` and under the table `enc`. -/
def WellFormed (enc : EncTable) (eis : Bool) : Instr → Bool
  | .jmp _ | .jsr _ | .isz _ | .dsz _ | .lda _ _ | .sta _ _ => true
  | .com f | .neg f | .mov f | .inc f | .adc f | .sub f | .add f | .and_ f => f.wf eis
  | .nio _ _ d | .dia _ _ d | .doa _ _ d | .dib _ _ d | .dob _ _ d | .dic _ _ d | .doc _ _ d => d != cpuCode
  | .skpbn _ d | .skpbz _ d | .skpdn _ d | .skpdz _ d => d != cpuCode
  | .nioCpu _ | .inten _ | .intds _ | .niopCpu _ | .reads _ _ | .doaCpu _ _ | .inta _ _ | .msko _ _ => true
  | .dicCpu ac f => !(ac == .a0 && f == .c)
  | .iorst | .halt _ _ | .skpbnCpu _ | .skpbzCpu _ | .skpdnCpu _ | .skpdzCpu _ => true
  | .slei _ | .sgri _ | .seqi _ | .snei _ | .ldi _ | .adi _ | .sbi _ => eis
  | .clrb _ _ | .setb _ _ | .togb _ _ | .sbz _ _ | .sbo _ _ | .sbzc _ _ | .sboc _ _ | .sbzs _ _ | .sbos _ _
  | .sbzt _ _ | .sbot _ _ => eis
  | .setsp _ | .redsp _ | .push _ | .pop _ | .pushjump _ | .rpushjump _ | .i2pushjump _ | .i3pushjump _ | .popjump => eis
  | .xload | .xstore | .tablsearch => eis
  | .eisUnassigned w => eis && unassignedWord enc w
  | .abinmultiply => eis && enc.knows .abinmultiply
  | .bindivide => eis && enc.knows .bindivide
  | .movewords => eis && enc.knows .movewords
  | .rmovwords => eis && enc.knows .rmovwords
  | .nybsl => eis && enc.knows .nybsl
  | .nybsr => eis && enc.knows .nybsr
  | .decadd => eis && enc.knows .decadd
  | .decsub => eis && enc.knows .decsub
  | .convert => eis && enc.knows .convert
  | .vjsr n => eis && enc.knows (.vjsr n)
  | .getbyte => eis && enc.knows .getbyte
  | .putbyte => eis && enc.knows .putbyte
  | .sgetbyte => eis && enc.knows .sgetbyte
  | .sputbyte => eis && enc.knows .sputbyte
  | .xgetbyte => eis && enc.knows .xgetbyte
  | .xputbyte => eis && enc.knows .xputbyte
  | .xsgetbyte => eis && enc.knows .xsgetbyte
  | .xsputbyte => eis && enc.knows .xsputbyte
  | .igetbyte d => eis && enc.knows (.igetbyte d)
  | .iputbyte d => eis && enc.knows (.iputbyte d)
  | .xtranslate => eis && enc.knows .xtranslate
  | .trace _ => eis && enc.knows .trace

end Sys2Proof
end

