-- ==== Sys2Proof/Decode.lean ====
section
/-! DEFINITION. The decoder (R81 to R95), total on any words, and after it the encoder, written from the same encoding
tables. Bit positions are the spec's `w[hi:lo]` slices. -/

namespace Sys2Proof

/-- The slice of `len` bits of `w` whose lowest bit has weight `2^lo` (R11 `w[hi:lo]`). -/
abbrev field (w : Word) (lo len : Nat) : BitVec len := w.extractLsb' lo len

/-! ## Field codes -/

def Ac.ofBits (b : BitVec 2) : Ac :=
  match b with
  | 0b00#2 => .a0
  | 0b01#2 => .a1
  | 0b10#2 => .a2
  | _ => .a3

def Ac.bits : Ac → BitVec 2
  | .a0 => 0b00#2
  | .a1 => 0b01#2
  | .a2 => 0b10#2
  | .a3 => 0b11#2

/-- Field X (R82). -/
def IndexMode.ofBits (b : BitVec 2) : IndexMode :=
  match b with
  | 0b00#2 => .pageZero
  | 0b01#2 => .relative
  | 0b10#2 => .baseA2
  | _ => .baseA3

def IndexMode.bits : IndexMode → BitVec 2
  | .pageZero => 0b00#2
  | .relative => 0b01#2
  | .baseA2 => 0b10#2
  | .baseA3 => 0b11#2

/-- Field SH (R86). -/
def Shift.ofBits (b : BitVec 2) : Shift :=
  match b with
  | 0b00#2 => .none
  | 0b01#2 => .left
  | 0b10#2 => .right
  | _ => .swap

def Shift.bits : Shift → BitVec 2
  | .none => 0b00#2
  | .left => 0b01#2
  | .right => 0b10#2
  | .swap => 0b11#2

/-- Field CY (R86). -/
def CarryBase.ofBits (b : BitVec 2) : CarryBase :=
  match b with
  | 0b00#2 => .current
  | 0b01#2 => .zero
  | 0b10#2 => .one
  | _ => .complement

def CarryBase.bits : CarryBase → BitVec 2
  | .current => 0b00#2
  | .zero => 0b01#2
  | .one => 0b10#2
  | .complement => 0b11#2

/-- Field SK (R86). -/
def SkipTest.ofBits (b : BitVec 3) : SkipTest :=
  match b with
  | 0b000#3 => .never
  | 0b001#3 => .skp
  | 0b010#3 => .szc
  | 0b011#3 => .snc
  | 0b100#3 => .szr
  | 0b101#3 => .snr
  | 0b110#3 => .sez
  | _ => .sbn

def SkipTest.bits : SkipTest → BitVec 3
  | .never => 0b000#3
  | .skp => 0b001#3
  | .szc => 0b010#3
  | .snc => 0b011#3
  | .szr => 0b100#3
  | .snr => 0b101#3
  | .sez => 0b110#3
  | .sbn => 0b111#3

/-- Field CTRL of a transfer (R85). -/
def Ctrl.ofBits (b : BitVec 2) : Ctrl :=
  match b with
  | 0b00#2 => .none
  | 0b01#2 => .s
  | 0b10#2 => .c
  | _ => .p

def Ctrl.bits : Ctrl → BitVec 2
  | .none => 0b00#2
  | .s => 0b01#2
  | .c => 0b10#2
  | .p => 0b11#2

/-! ## The decoder -/

/-- I, X and D (R82, R83). -/
def decodeMemRef (w : Word) : MemRef where
  ind := w.getLsbD 10
  x := IndexMode.ofBits (field w 8 2)
  d := field w 0 8

/-- Format MRJ (R82). -/
def decodeMrj (w : Word) : Instr :=
  match field w 11 2 with
  | 0b00#2 => .jmp (decodeMemRef w)
  | 0b01#2 => .jsr (decodeMemRef w)
  | 0b10#2 => .isz (decodeMemRef w)
  | _ => .dsz (decodeMemRef w)

/-- The fields of format ALU (R86). -/
def decodeAluFields (w : Word) : AluFields where
  acs := Ac.ofBits (field w 13 2)
  acd := Ac.ofBits (field w 11 2)
  sh := Shift.ofBits (field w 6 2)
  cy := CarryBase.ofBits (field w 4 2)
  nl := w.getLsbD 3
  sk := SkipTest.ofBits (field w 0 3)

/-- Format ALU (R86). -/
def decodeAlu (w : Word) : Instr :=
  match field w 8 3 with
  | 0b000#3 => .com (decodeAluFields w)
  | 0b001#3 => .neg (decodeAluFields w)
  | 0b010#3 => .mov (decodeAluFields w)
  | 0b011#3 => .inc (decodeAluFields w)
  | 0b100#3 => .adc (decodeAluFields w)
  | 0b101#3 => .sub (decodeAluFields w)
  | 0b110#3 => .add (decodeAluFields w)
  | _ => .and_ (decodeAluFields w)

/-- Format IO with a device code 00 to 76 (R85). -/
def decodeIoDevice (w : Word) : Instr :=
  let ac := Ac.ofBits (field w 11 2)
  let f := Ctrl.ofBits (field w 6 2)
  let d := field w 0 6
  match field w 8 3 with
  | 0b000#3 => .nio ac f d
  | 0b001#3 => .dia ac f d
  | 0b010#3 => .doa ac f d
  | 0b011#3 => .dib ac f d
  | 0b100#3 => .dob ac f d
  | 0b101#3 => .dic ac f d
  | 0b110#3 => .doc ac f d
  | _ =>
    match f with
    | .none => .skpbn ac d
    | .s => .skpbz ac d
    | .c => .skpdn ac d
    | .p => .skpdz ac d

/-- Format IO with device code 77 (R85, R200 to R215); `DICC 0,CPU` is IORST (R100). -/
def decodeIoCpu (w : Word) : Instr :=
  let ac := Ac.ofBits (field w 11 2)
  let f := Ctrl.ofBits (field w 6 2)
  match field w 8 3 with
  | 0b000#3 =>
    match f with
    | .none => .nioCpu ac
    | .s => .inten ac
    | .c => .intds ac
    | .p => .niopCpu ac
  | 0b001#3 => .reads ac f
  | 0b010#3 => .doaCpu ac f
  | 0b011#3 => .inta ac f
  | 0b100#3 => .msko ac f
  | 0b101#3 => if ac == .a0 && f == .c then .iorst else .dicCpu ac f
  | 0b110#3 => .halt ac f
  | _ =>
    match f with
    | .none => .skpbnCpu ac
    | .s => .skpbzCpu ac
    | .c => .skpdnCpu ac
    | .p => .skpdzCpu ac

/-- Format IO (R85): the code-77 rows take precedence over the generic rows. -/
def decodeIo (w : Word) : Instr := if field w 0 6 == cpuCode then decodeIoCpu w else decodeIoDevice w

/-- A word of the NOP-skip space that no firm row matches: the parametric table decides (R92 to R94). -/
def decodeParam (enc : EncTable) (w second : Word) : Instr :=
  match enc.op? w with
  | some op => op.toInstr second
  | none => .eisUnassigned w

/-- Format EB (R90): `w[13:11]` is 0, T, TO and `w[9:8]` is ACT. -/
def decodeEisBit (enc : EncTable) (w second : Word) : Instr :=
  let ind := w.getLsbD 10
  match field w 11 3, field w 8 2 with
  | 0b000#3, 0b01#2 => .clrb ind second
  | 0b000#3, 0b10#2 => .setb ind second
  | 0b000#3, 0b11#2 => .togb ind second
  | 0b010#3, 0b00#2 => .sbz ind second
  | 0b010#3, 0b01#2 => .sbzc ind second
  | 0b010#3, 0b10#2 => .sbzs ind second
  | 0b010#3, 0b11#2 => .sbzt ind second
  | 0b011#3, 0b00#2 => .sbo ind second
  | 0b011#3, 0b01#2 => .sboc ind second
  | 0b011#3, 0b10#2 => .sbos ind second
  | 0b011#3, 0b11#2 => .sbot ind second
  | _, _ => decodeParam enc w second

/-- Format ES (R91): `w[13]` is M and `w[10:8]` is DIR. -/
def decodeEisStack (enc : EncTable) (w second : Word) : Instr :=
  let ac := Ac.ofBits (field w 11 2)
  match w.getLsbD 13, field w 8 3 with
  | false, 0b100#3 => .setsp ac
  | false, 0b000#3 => .redsp ac
  | true, 0b100#3 => .push ac
  | true, 0b000#3 => .pop ac
  | _, _ => decodeParam enc w second

/-- Format EX (R92): `w[13:8]` is the opcode. -/
def decodeEisFull (enc : EncTable) (w second : Word) : Instr :=
  match field w 8 6 with
  | 0b000000#6 => .popjump
  | 0b000100#6 => .pushjump second
  | 0b000101#6 => .rpushjump second
  | 0b000110#6 => .i2pushjump second
  | 0b000111#6 => .i3pushjump second
  | 0b011000#6 => .xload
  | 0b011100#6 => .xstore
  | 0b101000#6 => .tablsearch
  | _ => decodeParam enc w second

/-- The EIS decode tree (R88). -/
def decodeEis (enc : EncTable) (w second : Word) : Instr :=
  let k := field w 6 8
  match w.getLsbD 14, field w 4 2 with
  | false, 0b00#2 => .slei k
  | false, 0b01#2 => .sgri k
  | false, 0b10#2 => .seqi k
  | false, _ => .snei k
  | true, 0b00#2 => .ldi k
  | true, 0b01#2 => .adi k
  | true, 0b10#2 => .sbi k
  | true, _ =>
    match field w 6 2 with
    | 0b00#2 => decodeEisBit enc w second
    | 0b01#2 => decodeEisStack enc w second
    | 0b10#2 => decodeEisFull enc w second
    | _ => decodeParam enc w second

/-- Top-level decode (R81, R87): the instruction of first word `w`, with the word that follows it in memory. -/
def decode (enc : EncTable) (eis : Bool) (w second : Word) : Instr :=
  match field w 13 3 with
  | 0b000#3 => decodeMrj w
  | 0b001#3 => .lda (Ac.ofBits (field w 11 2)) (decodeMemRef w)
  | 0b010#3 => .sta (Ac.ofBits (field w 11 2)) (decodeMemRef w)
  | 0b011#3 => decodeIo w
  | _ => if eis && nopSkipWord w then decodeEis enc w second else decodeAlu w

/-- Why a list of words holds no instruction. -/
inductive DecodeError where
  /-- There is no word. -/
  | noWord
  /-- A two-word instruction without its second word. -/
  | noSecondWord
deriving DecidableEq, Repr

/-- The first instruction of a list of words and the words after it. -/
def decodeWords (enc : EncTable) (eis : Bool) : List Word → Except DecodeError (Instr × List Word)
  | [] => .error .noWord
  | w :: rest =>
    if (decode enc eis w 0).words = 2 then
      match rest with
      | [] => .error .noSecondWord
      | second :: rest' => .ok (decode enc eis w second, rest')
    else .ok (decode enc eis w 0, rest)

/-! ## The encoder -/

/-- I, X, D (R82, R83). -/
def MemRef.bits (m : MemRef) : BitVec 11 := BitVec.ofBool m.ind ++ m.x.bits ++ m.d

/-- Format MRJ (R82). -/
def encodeMrj (op : BitVec 2) (m : MemRef) : Word := 0b000#3 ++ op ++ m.bits

/-- Format ALU (R86). -/
def encodeAlu (op : BitVec 3) (f : AluFields) : Word :=
  1#1 ++ f.acs.bits ++ f.acd.bits ++ op ++ f.sh.bits ++ f.cy.bits ++ BitVec.ofBool f.nl ++ f.sk.bits

/-- Format IO (R85). -/
def encodeIo (ac : Ac) (op : BitVec 3) (f : Ctrl) (d : DevCode) : Word := 0b011#3 ++ ac.bits ++ op ++ f.bits ++ d

/-- Format EI (R89). -/
def encodeEi (kind : Bool) (k : BitVec 8) (op : BitVec 2) : Word := 1#1 ++ BitVec.ofBool kind ++ k ++ op ++ 0b1001#4

/-- Format EB (R90); `one` is the field TO. -/
def encodeEb (t one : Bool) (ind : Bool) (act : BitVec 2) : Word :=
  0b110#3 ++ BitVec.ofBool t ++ BitVec.ofBool one ++ BitVec.ofBool ind ++ act ++ 0b00111001#8

/-- Format ES (R91). -/
def encodeEs (m : Bool) (ac : Ac) (dir : BitVec 3) : Word :=
  0b11#2 ++ BitVec.ofBool m ++ ac.bits ++ dir ++ 0b01111001#8

/-- Format EX (R92). -/
def encodeEx (op : BitVec 6) : Word := 0b11#2 ++ op ++ 0b10111001#8

/-- The words of an instruction. A parametric operation that the table does not hold has none. -/
def encode (enc : EncTable) : Instr → List Word
  | .jmp m => [encodeMrj 0b00#2 m]
  | .jsr m => [encodeMrj 0b01#2 m]
  | .isz m => [encodeMrj 0b10#2 m]
  | .dsz m => [encodeMrj 0b11#2 m]
  | .lda ac m => [0b001#3 ++ ac.bits ++ m.bits]
  | .sta ac m => [0b010#3 ++ ac.bits ++ m.bits]
  | .com f => [encodeAlu 0b000#3 f]
  | .neg f => [encodeAlu 0b001#3 f]
  | .mov f => [encodeAlu 0b010#3 f]
  | .inc f => [encodeAlu 0b011#3 f]
  | .adc f => [encodeAlu 0b100#3 f]
  | .sub f => [encodeAlu 0b101#3 f]
  | .add f => [encodeAlu 0b110#3 f]
  | .and_ f => [encodeAlu 0b111#3 f]
  | .nio ac f d => [encodeIo ac 0b000#3 f d]
  | .dia ac f d => [encodeIo ac 0b001#3 f d]
  | .doa ac f d => [encodeIo ac 0b010#3 f d]
  | .dib ac f d => [encodeIo ac 0b011#3 f d]
  | .dob ac f d => [encodeIo ac 0b100#3 f d]
  | .dic ac f d => [encodeIo ac 0b101#3 f d]
  | .doc ac f d => [encodeIo ac 0b110#3 f d]
  | .skpbn ac d => [encodeIo ac 0b111#3 .none d]
  | .skpbz ac d => [encodeIo ac 0b111#3 .s d]
  | .skpdn ac d => [encodeIo ac 0b111#3 .c d]
  | .skpdz ac d => [encodeIo ac 0b111#3 .p d]
  | .nioCpu ac => [encodeIo ac 0b000#3 .none cpuCode]
  | .inten ac => [encodeIo ac 0b000#3 .s cpuCode]
  | .intds ac => [encodeIo ac 0b000#3 .c cpuCode]
  | .niopCpu ac => [encodeIo ac 0b000#3 .p cpuCode]
  | .reads ac f => [encodeIo ac 0b001#3 f cpuCode]
  | .doaCpu ac f => [encodeIo ac 0b010#3 f cpuCode]
  | .inta ac f => [encodeIo ac 0b011#3 f cpuCode]
  | .msko ac f => [encodeIo ac 0b100#3 f cpuCode]
  | .dicCpu ac f => [encodeIo ac 0b101#3 f cpuCode]
  | .iorst => [encodeIo .a0 0b101#3 .c cpuCode]
  | .halt ac f => [encodeIo ac 0b110#3 f cpuCode]
  | .skpbnCpu ac => [encodeIo ac 0b111#3 .none cpuCode]
  | .skpbzCpu ac => [encodeIo ac 0b111#3 .s cpuCode]
  | .skpdnCpu ac => [encodeIo ac 0b111#3 .c cpuCode]
  | .skpdzCpu ac => [encodeIo ac 0b111#3 .p cpuCode]
  | .slei k => [encodeEi false k 0b00#2]
  | .sgri k => [encodeEi false k 0b01#2]
  | .seqi k => [encodeEi false k 0b10#2]
  | .snei k => [encodeEi false k 0b11#2]
  | .ldi k => [encodeEi true k 0b00#2]
  | .adi k => [encodeEi true k 0b01#2]
  | .sbi k => [encodeEi true k 0b10#2]
  | .clrb ind mask => [encodeEb false false ind 0b01#2, mask]
  | .setb ind mask => [encodeEb false false ind 0b10#2, mask]
  | .togb ind mask => [encodeEb false false ind 0b11#2, mask]
  | .sbz ind mask => [encodeEb true false ind 0b00#2, mask]
  | .sbo ind mask => [encodeEb true true ind 0b00#2, mask]
  | .sbzc ind mask => [encodeEb true false ind 0b01#2, mask]
  | .sboc ind mask => [encodeEb true true ind 0b01#2, mask]
  | .sbzs ind mask => [encodeEb true false ind 0b10#2, mask]
  | .sbos ind mask => [encodeEb true true ind 0b10#2, mask]
  | .sbzt ind mask => [encodeEb true false ind 0b11#2, mask]
  | .sbot ind mask => [encodeEb true true ind 0b11#2, mask]
  | .setsp ac => [encodeEs false ac 0b100#3]
  | .redsp ac => [encodeEs false ac 0b000#3]
  | .push ac => [encodeEs true ac 0b100#3]
  | .pop ac => [encodeEs true ac 0b000#3]
  | .pushjump a => [encodeEx 0b000100#6, a]
  | .rpushjump a => [encodeEx 0b000101#6, a]
  | .i2pushjump a => [encodeEx 0b000110#6, a]
  | .i3pushjump a => [encodeEx 0b000111#6, a]
  | .popjump => [encodeEx 0b000000#6]
  | .xload => [encodeEx 0b011000#6]
  | .xstore => [encodeEx 0b011100#6]
  | .tablsearch => [encodeEx 0b101000#6]
  | .eisUnassigned w => [w]
  | .abinmultiply => (enc.word? .abinmultiply).toList
  | .bindivide => (enc.word? .bindivide).toList
  | .movewords => (enc.word? .movewords).toList
  | .rmovwords => (enc.word? .rmovwords).toList
  | .nybsl => (enc.word? .nybsl).toList
  | .nybsr => (enc.word? .nybsr).toList
  | .decadd => (enc.word? .decadd).toList
  | .decsub => (enc.word? .decsub).toList
  | .convert => (enc.word? .convert).toList
  | .vjsr n => (enc.word? (.vjsr n)).toList
  | .getbyte => (enc.word? .getbyte).toList
  | .putbyte => (enc.word? .putbyte).toList
  | .sgetbyte => (enc.word? .sgetbyte).toList
  | .sputbyte => (enc.word? .sputbyte).toList
  | .xgetbyte => (enc.word? .xgetbyte).toList
  | .xputbyte => (enc.word? .xputbyte).toList
  | .xsgetbyte => (enc.word? .xsgetbyte).toList
  | .xsputbyte => (enc.word? .xsputbyte).toList
  | .igetbyte d => (enc.word? (.igetbyte d)).toList
  | .iputbyte d => (enc.word? (.iputbyte d)).toList
  | .xtranslate => (enc.word? .xtranslate).toList
  | .trace a => (enc.word? .trace).toList ++ [a]

/-! ## The opcode table's numbering -/

/-- The instruction the decoder reads from the bits `w` as spec/opcode_table.json numbers them: bit 0 is the least
significant bit of the first word, bits 31..16 are the second word. Words of the NOP-skip space are read with EIS = 1, as
the rows of the extended set are (log 39); every bit above `nbits` is 0. -/
def decodeTableWord (nbits w : Nat) : Option Instr :=
  let bits := w % 2 ^ nbits
  match decodeWords Config.default.enc true [BitVec.ofNat 16 bits, BitVec.ofNat 16 (bits / 2 ^ 16)] with
  | .ok (i, _) => some i
  | .error _ => none

end Sys2Proof
end

