-- ==== Sys2Proof/Machine/State.lean ====
section
/-! DEFINITION. The machine's state as plain data (spec/10_state.md), the inputs of the devices, the environment and the
operator, the stops, and the state after reset. -/

namespace Sys2Proof.Machine

/-! ## Devices (R39, R40) -/

/-- The three channels of a device (R170). -/
inductive Buf where
  | bufA | bufB | bufC
deriving DecidableEq, Repr

/-- What a control pulse does to a device's flags: a new value, or none for no change (R179 to R181). -/
structure PulseEffect where
  busy : Option Bool
  done : Option Bool
  intReq : Option Bool
deriving DecidableEq, Repr

/-- An installed device: its place in the DEVICES parameter (R6, R190) and its state (R40). -/
structure Device where
  /-- Its device code. -/
  code : DevCode
  /-- The manual bit number of the MSKO word that controls it, if one is assigned (R208, D31). -/
  maskBit : Option (Fin 16)
  /-- Its buffers are 8 bits wide (R187, R188). -/
  byteWide : Bool
  /-- It uses the data channel (R190, R378). -/
  dch : Bool
  /-- It receives input it was not started for (R188, R377). -/
  unsolicited : Bool
  /-- The effect of the pulse S. -/
  onStart : PulseEffect
  /-- The effect of the pulse C. -/
  onClear : PulseEffect
  /-- The effect of the pulse P. -/
  onPulse : PulseEffect
  busy : Bool
  done : Bool
  intDisable : Bool
  intReq : Bool
  inA : Word
  inB : Word
  inC : Word
  outA : Word
  outB : Word
  outC : Word
deriving DecidableEq, Repr

/-- The default effect of S: Busy set, Done and the request cleared (R179). -/
def PulseEffect.start : PulseEffect := ⟨some true, some false, some false⟩

/-- The default effect of C: all three cleared (R180). -/
def PulseEffect.clear : PulseEffect := ⟨some false, some false, some false⟩

/-- No effect: the default for P (R181). -/
def PulseEffect.nothing : PulseEffect := ⟨none, none, none⟩

/-- A device of the default model, idle, that uses no data channel and receives nothing unasked (R179 to R181, R186). -/
def Device.idle (code : DevCode) (maskBit : Option (Fin 16)) (byteWide : Bool) : Device where
  code := code
  maskBit := maskBit
  byteWide := byteWide
  dch := false
  unsolicited := false
  onStart := .start
  onClear := .clear
  onPulse := .nothing
  busy := false
  done := false
  intDisable := false
  intReq := false
  inA := 0
  inB := 0
  inC := 0
  outA := 0
  outB := 0
  outC := 0

/-- Terminal input: device code 10, mask bit 14; a key press needs no start (R188). -/
def Device.tti : Device := { Device.idle 0o10#6 (some 14) true with unsolicited := true }

/-- Terminal output: device code 11, mask bit 15 (R187). -/
def Device.tto : Device := .idle 0o11#6 (some 15) true

/-! ## What arrives from outside (R362, R377) -/

/-- One data channel cycle (R61, R378): a device writes a word into memory, or reads one from it. -/
inductive DchCycle where
  /-- Data Channel Input: the word `v` of device `d` goes to memory at `addr`. -/
  | input (d : DevCode) (addr v : Word)
  /-- Data Channel Output: the word at `addr` goes to device `d`. -/
  | output (d : DevCode) (addr : Word)
deriving DecidableEq, Repr

/-- What a device or the power monitor may do at an instruction boundary or between two iterations of a long EIS
instruction (R62, R326, R377). -/
inductive EnvEvent where
  /-- The waiting data channel requests. `stale`: the instruction executed next, by the running processor or by INST STEP, is
  the word fetched before these cycles (R36, R68: both outcomes are admitted). -/
  | dataChannel (cycles : List DchCycle) (stale : Bool)
  /-- A started device finishes (R186). `late`: whether it raises its request although it is disabled (R377: both). -/
  | completes (d : DevCode) (late : Bool)
  /-- Input at a device that receives it unasked: the word arrives in input buffer A and Done is set (R188, R377). -/
  | arrives (d : DevCode) (v : Word) (late : Bool)
  /-- A device puts a word in an input buffer: what the next read of it returns (R377). -/
  | loads (d : DevCode) (buf : Buf) (v : Word)
  /-- AC power is failing (R348). -/
  | powerFailing
deriving DecidableEq, Repr

/-- Which panel a switch is on (R362). -/
inductive Panel where
  | mini | ocu
deriving DecidableEq, Repr

/-- The positions of the key switch (R374). -/
inductive Key where
  | off | standby | on | auto
deriving DecidableEq, Repr

/-- The operator's acts (R362 to R375). -/
inductive PanelAct where
  | stop (p : Panel) | cont (p : Panel) | apl (p : Panel)
  | reset | start | instStep
  | exam | examNext | examPrev | depNext
  /-- DEP. `stale`: an INST STEP that follows executes the word fetched before it (R36: not settled; log 19). -/
  | dep (stale : Bool)
  | examAc (a : Ac) | depAc (a : Ac)
  | digit (n : BitVec 3) | clearData | set64k
  | key (k : Key) | miniSwitches (v : BitVec 8) | selfTest (on : Bool)
deriving DecidableEq, Repr

/-- Which memory read a parity error hits (R353; log 26). -/
inductive ParityHit where
  /-- The fetch of the next instruction. -/
  | fetch
  /-- The next read of the word at this address, by the next instruction or by the one that goes on. -/
  | data (addr : Word)
  /-- A read of the word at this address by the instruction for which INST STEP is pressed now. -/
  | stepped (addr : Word)
  /-- The read of EXAM, EXAM NEXT or EXAM PREV, pressed now. -/
  | examined (a : PanelAct)
  /-- The read of a data channel output cycle. -/
  | channel (d : DevCode) (addr : Word)
deriving DecidableEq, Repr

/-- The values the source leaves unspecified after power turn-on (R42, R391), supplied by the environment (log 27). -/
structure PowerUp where
  a0 : Word
  a1 : Word
  a2 : Word
  a3 : Word
  c : Bool
  sp : Word
  xpc : Word
  /-- The pc of a cold start. -/
  pc : Word
  ocuData : Word
  /-- Memory, where no battery backup has kept it. -/
  mem : List Host.Cell
deriving DecidableEq, Repr

/-- One entry of the list of coming acts (log 16). -/
inductive Input where
  /-- The processor takes its turn: an interrupt entry or one instruction. -/
  | proceed
  /-- An act of a device or of the power monitor at this boundary. -/
  | env (e : EnvEvent)
  /-- Acts between two iterations of a long EIS instruction that is executing then (R326); at an ordinary boundary,
  acts at that boundary. -/
  | between (es : List EnvEvent)
  /-- An act of the operator. -/
  | panel (a : PanelAct)
  /-- A parity error (R353). -/
  | parity (h : ParityHit)
  /-- AC power is lost (R395). -/
  | powerLost
  /-- The batteries are discharged while power is off (R71). -/
  | batteriesDischarged
  /-- Power returns (R391, R395). -/
  | powerRestored (v : PowerUp)
deriving DecidableEq, Repr

/-- What an I/O instruction does before its pulse (R170, R200). -/
inductive IoAction where
  /-- No transfer: NIO. -/
  | nio
  /-- `v` is read on an input channel: DIA, DIB, DIC, READS, INTA. -/
  | input (buf : Buf) (v : Word)
  /-- `v` is given on an output channel: DOA, DOB, DOC, MSKO. -/
  | output (buf : Buf) (v : Word)
  /-- A skip instruction's test of Busy or Done. -/
  | skip
  /-- I/O Reset: DIC CPU, IORST. -/
  | ioReset
  /-- HALT. -/
  | halt
deriving DecidableEq, Repr

/-- One record of the I/O history (R377). -/
inductive IoEvent where
  /-- An executed I/O instruction: its device code (77 for the processor), what it did, and its CTRL field, which is the
  pulse or, of a skip, the test. -/
  | instr (d : DevCode) (act : IoAction) (f : Ctrl)
  /-- A data channel cycle that wrote `v` at `addr`. -/
  | dchInput (d : DevCode) (addr v : Word)
  /-- A data channel cycle that read `v` at `addr`. -/
  | dchOutput (d : DevCode) (addr v : Word)
deriving DecidableEq, Repr

/-! ## Instructions that have not completed (R113, R324) -/

/-- The operation a memory reference instruction performs at its effective address (R114 to R119). -/
inductive MemOp where
  | jmp | jsr | isz | dsz | lda (ac : Ac) | sta (ac : Ac)
deriving DecidableEq, Repr

/-- What goes on: an indirect chain whose next level is fetched from `ea`, or a table search. -/
inductive Endless where
  | chain (op : MemOp) (ea : Word)
  | search
deriving DecidableEq, Repr

/-- An instruction that has not completed. -/
structure Hung where
  what : Endless
  /-- It is the remote instruction of a TRACE (R325). -/
  traced : Bool
  /-- It is being single-stepped (R368). -/
  stepping : Bool
deriving DecidableEq, Repr

/-! ## The state -/

/-- The power of the machine (R391, R395). -/
inductive Power where
  | on
  /-- Lost by AC failure or by the key at STDBY: battery backup may keep memory. -/
  | lost
  /-- The key at OFF. -/
  | off
deriving DecidableEq, Repr

/-- The panels and the power (R41, R353, R374, R375, R395). -/
structure Panels where
  /-- OCU_DATA: the DATA display. -/
  ocuData : Word
  /-- After a parity halt the OCU switches other than RESET and CONT are dead until RESET is pressed (R353, R362). -/
  ocuLocked : Bool
  /-- MINI_SWITCHES (R205, D27). -/
  miniSwitches : BitVec 8
  key : Key
  /-- The Self-Test switch (R375). -/
  selfTest : Bool
  power : Power
  /-- The battery backup has kept memory (R71). -/
  memKept : Bool
deriving DecidableEq, Repr

/-- Memory: byte cells, addresses strictly rising, no cell 00. The word at word address `a` is the byte at `2 * a` (its
high-order half, R51) and the byte at `2 * a + 1` (log 4). -/
abbrev Memory := List Host.Cell

/-- Everything the spec gives the machine. -/
structure State where
  /-- Accumulator A0 (R20). -/
  a0 : Word
  /-- Accumulator A1. -/
  a1 : Word
  /-- Accumulator A2. -/
  a2 : Word
  /-- Accumulator A3. -/
  a3 : Word
  /-- Carry (R22). -/
  c : Bool
  /-- The program counter (R23). -/
  pc : Word
  /-- ION (R27). -/
  ion : Bool
  /-- ION_PENDING (R28). -/
  ionPending : Bool
  /-- MODE64K (R29). -/
  mode64k : Bool
  /-- EIS (R30). -/
  eis : Bool
  /-- PWRFAIL (R31). -/
  pwrFail : Bool
  /-- SP (R32). -/
  sp : Word
  /-- XPC (R33). -/
  xpc : Word
  /-- RUN (R37). -/
  run : Bool
  /-- PARERR (R37). -/
  parErr : Bool
  /-- Memory (R50). -/
  mem : Memory
  /-- The installed devices, closest to the processor first (R6, R40). -/
  devices : List Device
  /-- A fetched-ahead instruction word that memory no longer holds (R36, R68). -/
  ahead : Option Word
  /-- The instruction that has not completed, if there is one. -/
  hung : Option Hung
  /-- A read that a parity error has hit: the memory address and the word it delivers when the processor goes on (R353,
  D24; log 26). -/
  misread : Option (Word × Word)
  /-- With power failing: a data channel cycle has been performed since the processor's last turn (R63, R349). -/
  dchServed : Bool
  /-- The panels. -/
  panels : Panels
  /-- The parameters. -/
  cfg : Config
  /-- The coming acts of the devices, the environment and the operator. -/
  inputs : List Input
  /-- The I/O history, newest first (R377). -/
  ioTrace : List IoEvent
  /-- How many free values have been taken. -/
  draws : Nat
deriving DecidableEq, Repr

/-- Why the machine stops. -/
inductive Fault where
  /-- Raised by the operator's APL with Self-Test selected: the Self-Test PROM's program takes the machine and the modelled
  run ends (R375). Safe: nothing is claimed of what follows. -/
  | selfTestLoaded
deriving DecidableEq, Repr

/-- Why the model has no step. -/
inductive Refusal where
  /-- Raised by `exec` for an instruction that has no meaning yet. Safe: nothing is claimed of it. -/
  | notModelled (mnemonic : String)
  /-- Raised by `DOA ac,CPU`: "DOA is not defined" (R206). Safe. -/
  | doaCpuNotDefined
  /-- Raised by a word of the NOP-skip space that is no documented extended instruction, with EIS = 1 (R94). Safe. -/
  | eisUnassigned
  /-- Raised by TRACE when the remote instruction is TRACE (R325, D29). Safe. -/
  | tracedTrace
  /-- Raised by TRACE when the remote instruction is HALT (R325, D29). Safe. -/
  | tracedHalt
  /-- Raised by APL pressed while the processor runs and is not hung: "the model has no move for it" (R365). Safe. -/
  | aplWhileRunning
deriving DecidableEq, Repr

/-- The machine after power turn-on with the key at AUTO, power having returned after a failure with battery backup: the
one reset for which the spec states a program counter and a running processor (R42, R391, R395; logs 1 to 6). -/
def State.reset : State where
  a0 := 0
  a1 := 0
  a2 := 0
  a3 := 0
  c := false
  pc := 0o000000#16
  ion := false
  ionPending := false
  mode64k := false
  eis := false
  pwrFail := false
  sp := 0
  xpc := 0
  run := true
  parErr := false
  mem := []
  devices := [Device.tti, Device.tto]
  ahead := none
  hung := none
  misread := none
  dchServed := false
  panels :=
    { ocuData := 0, ocuLocked := false, miniSwitches := 0, key := .auto, selfTest := false, power := .on, memKept := true }
  cfg := Config.default
  inputs := []
  ioTrace := []
  draws := 0

end Sys2Proof.Machine
end

