-- ==== Sys2Proof/Machine/Ops.lean ====
section
/-! DEFINITION. The named operations over memory and registers, the indirect chain, and taking an exception. -/

namespace Sys2Proof.Machine

/-! ## Memory (R50, R51) -/

/-- What a byte that memory does not list reads as. The source gives RAM no contents after power turn-on: DESIGN CHOICE,
unsafe for claims about runs from `State.reset` (log 3). -/
def unlistedByte : Byte := 0

/-- The byte at a byte address. -/
def memByte (m : Memory) (a : Nat) : Byte :=
  match m.find? fun e => e.1 == a with
  | some e => e.2
  | none => unlistedByte

/-- A cell put at its place in the order of addresses. -/
def insertCell (a : Nat) (v : Byte) : Memory → Memory
  | [] => [(a, v)]
  | e :: t => if a < e.1 then (a, v) :: e :: t else e :: insertCell a v t

/-- One byte written, in canonical form. -/
def setByte (m : Memory) (a : Nat) (v : Byte) : Memory :=
  let rest := m.filter fun e => e.1 != a
  if v == unlistedByte then rest else insertCell a v rest

/-- The word at a word address: its high-order byte at the even byte address (R51; log 4). -/
def memWord (m : Memory) (a : Word) : Word := memByte m (2 * a.toNat) ++ memByte m (2 * a.toNat + 1)

/-- One word written. -/
def setWord (m : Memory) (a v : Word) : Memory :=
  setByte (setByte m (2 * a.toNat) (v.extractLsb' 8 8)) (2 * a.toNat + 1) (v.extractLsb' 0 8)

/-- The canonical form: addresses strictly rising, inside the address space, no cell equal to what an unlisted one reads. -/
abbrev Memory.wf (m : Memory) : Prop :=
  m.Pairwise (fun x y => x.1 < y.1) ∧ ∀ e ∈ m, e.2 ≠ unlistedByte ∧ e.1 < 131072

/-- A memory with the given cells, each written in turn (cells outside the address space are dropped). -/
def memoryOf (cells : List Host.Cell) : Memory :=
  cells.foldl (fun m e => if e.1 < 131072 then setByte m e.1 e.2 else m) []

/-! ## Accumulators (R20) -/

/-- `x[i]`. -/
def State.ac (s : State) : Ac → Word
  | .a0 => s.a0
  | .a1 => s.a1
  | .a2 => s.a2
  | .a3 => s.a3

/-- `x[i] <- v`. -/
def State.setAc (s : State) (n : Ac) (v : Word) : State :=
  match n with
  | .a0 => { s with a0 := v }
  | .a1 => { s with a1 := v }
  | .a2 => { s with a2 := v }
  | .a3 => { s with a3 := v }

/-! ## Memory as the processor reaches it -/

/-- The memory word an address names: in 32K mode an address of 100000 or above is the parameter MODE32K_DIRECT_HIGH
(R56; logs 7 and 8). -/
def State.phys (s : State) (a : Word) : Word :=
  if !s.mode64k && s.cfg.highAddress == .mask15 then a &&& 0o077777#16 else a

/-- The word that memory holds at an address. -/
def State.stored (s : State) (a : Word) : Word := memWord s.mem (s.phys a)

/-- Memory takes a word at an address. -/
def State.store (s : State) (a v : Word) : State := { s with mem := setWord s.mem (s.phys a) v }

/-- The processor's `MemRead(addr, 1)` (R11): the word that memory holds, or the free value that the read delivers after a
parity error at that word (R353, D24). -/
def State.read (s : State) (a : Word) : Word :=
  match s.misread with
  | some (p, v) => if p == s.phys a then v else s.stored a
  | none => s.stored a

/-- The processor's `MemWrite(addr, 1, v)` (R11): a word written reads back as it was written. -/
def State.write (s : State) (a v : Word) : State :=
  { s.store a v with misread := s.misread.filter fun m => m.1 != s.phys a }

/-! ## Free values (R11; log 13) -/

/-- `unspecified_16`: the next free word. -/
def State.freeWord (s : State) : Word := Config.freeWord s.draws

/-- `unspecified_1`: the next free bit. -/
def State.freeBit (s : State) : Bool := Config.freeBit s.draws

/-- The state after `n` free values have been taken. -/
def State.drawn (s : State) (n : Nat) : State := { s with draws := s.draws + n }

/-! ## The end of an instruction (R24, R345) -/

/-- The instruction completes: `pc <- pc_next`, and ION_PENDING is cleared (R345; an S pulse to device 77 sets it after
this, so that the instruction that sets it does not clear it; log 20). -/
def State.complete (s : State) (next : Word) : State := { s with pc := next, ionPending := false }

/-- Completion at the word after an instruction of `len` words, one further when it skips (R24, R25). -/
def State.advance (s : State) (len : Word) (skips : Bool) : State :=
  s.complete (if skips then s.pc + len + 1 else s.pc + len)

/-! ## The indirect sequence (R111 to R113) -/

/-- Auto-increment locations (R112). -/
def autoIncrement (a : Word) : Bool := 0o20#16 ≤ a && a ≤ 0o27#16

/-- Auto-decrement locations (R112). -/
def autoDecrement (a : Word) : Bool := 0o30#16 ≤ a && a ≤ 0o37#16

/-- The address word that location `ea` yields (R111). -/
def State.levelWord (s : State) (ea : Word) : Word :=
  if autoIncrement (s.phys ea) then s.read ea + 1
  else if autoDecrement (s.phys ea) then s.read ea - 1
  else s.read ea

/-- One level of the sequence: the incremented or decremented word is written back (R112). -/
def State.level (s : State) (ea : Word) : State :=
  if autoIncrement (s.phys ea) || autoDecrement (s.phys ea) then s.write ea (s.levelWord ea) else s

/-- Does the sequence end with the address word `v`? In 64K mode always, in 32K mode when bit 15 is 0 (R111). -/
def State.chainEnds (s : State) (v : Word) : Bool := s.mode64k || !v.getLsbD 15

/-- Where a sequence is after some levels. -/
inductive Chain where
  /-- It has ended with effective address `e`. -/
  | address (e : Word) (s : State)
  /-- It goes on: the next address word is at `ea`. -/
  | more (ea : Word) (s : State)

/-- At most `n` levels of the sequence (R111); the next level of a 32K-mode sequence is the low 15 bits of the word (D28). -/
def followChain : Nat → State → Word → Chain
  | 0, s, ea => .more ea s
  | n + 1, s, ea =>
    let v := s.levelWord ea
    let s1 := s.level ea
    if s.chainEnds v then .address v s1 else followChain n s1 (v &&& 0o077777#16)

/-- A sequence that has not ended after this many levels is one that goes on (R113; log 17). -/
def chainLevels : Nat := 65536

/-- The sequence as one step of the machine follows it: whole, where it ends (R62); one level, where it goes on, so that
device acts may fall between all its levels (R113, D38; log 17). -/
def State.chain (s : State) (ea : Word) : Chain :=
  match followChain chainLevels s ea with
  | .address e t => .address e t
  | .more _ _ => followChain 1 s ea

/-! ## The processor goes on -/

/-- The processor goes on: with power failing the data channel may have its next cycle after this (R63, R349). -/
def State.proceeds (s : State) : State := { s with dchServed := false }

/-- The processor's turn after a parity error is over: later reads deliver what memory holds (R353; log 26). -/
def State.rereads (s : State) : State := { s with misread := none }

/-! ## Taking an exception -/

/-- The stack fault (R261, R341): the saved pc goes to the cell that SB (cell 45) names, the pc comes from the cell after
it (SF). Nothing else changes. It is the last act of the instruction. There is no return instruction for it. -/
def State.stackFault (s : State) (saved : Word) : State :=
  let sb := s.read 0o45#16
  let s1 := s.write sb saved
  s1.complete (s1.read (sb + 1))

/-- A device pulls the request line: it requests and is not disabled (R343, R346, D25). -/
def Device.requesting (d : Device) : Bool := d.intReq && !d.intDisable

/-- `IntLine` (R343): a device requests, or power is failing (R348). -/
def State.intLine (s : State) : Bool := s.devices.any Device.requesting || s.pwrFail

/-- The condition under which an interrupt is taken at a boundary (R343). -/
def State.interruptDue (s : State) : Bool := s.run && s.ion && !s.ionPending && s.intLine

/-- What interrupt entry writes before the vector is read: ION and ION_PENDING cleared, the pc stored at location 0; the
word fetched ahead is dropped, since it is fetched again after the return (R343, R344). -/
def State.interruptSave (s : State) : State :=
  ({ s with ion := false, ionPending := false, ahead := none } : State).write 0o0#16 s.pc

/-- Interrupt entry (R344): the pc comes from location 1, as the word stands or, under the other reading of
INT_VECTOR_INDIRECT, as `JMP @1` would take it. The return is INTEN followed by `JMP @0` (R350): there is no return
instruction. -/
def State.interruptEntry (s : State) : State :=
  let s1 := s.interruptSave
  match s1.cfg.vectorReading with
  | .direct => { s1 with pc := s1.read 0o1#16 }
  | .indirect =>
    match s1.chain 0o1#16 with
    | .address e s2 => { s2 with pc := e }
    | .more ea s2 => { s2 with hung := some { what := .chain .jmp ea, traced := false, stepping := false } }

end Sys2Proof.Machine
end

