-- ==== Sys2Proof/Machine/Flags.lean ====
section
/-! DEFINITION. Carry: the carry preselect, the carry out of each ALU function, the skip tests (R141, R142, R153). -/

namespace Sys2Proof.Machine

/-- CSEL: the base the CY field selects (R141). -/
def carrySelect (cy : CarryBase) (c : Bool) : Bool :=
  match cy with
  | .current => c
  | .zero => false
  | .one => true
  | .complement => !c

/-- The result of an ALU function: 16 bits and the carry out COUT (R140, R142). -/
structure AluOut where
  r : Word
  cout : Bool
deriving DecidableEq, Repr

/-- A 16-bit binary addition with a carry in: the sum is formed in 17 bits (R142). -/
def adder (x y : Word) (carryIn : Bool) : AluOut :=
  let t : BitVec 17 := x.setWidth 17 + y.setWidth 17 + (BitVec.ofBool carryIn).setWidth 17
  { r := t.setWidth 16, cout := t.getLsbD 16 }

/-- COM (R143). -/
def aluCom (s _d : Word) : AluOut := { r := ~~~s, cout := false }

/-- NEG (R144). -/
def aluNeg (s _d : Word) : AluOut := adder (~~~s) 0 true

/-- MOV (R145). -/
def aluMov (s _d : Word) : AluOut := { r := s, cout := false }

/-- INC (R146). -/
def aluInc (s _d : Word) : AluOut := adder s 0 true

/-- ADC (R147). -/
def aluAdc (s d : Word) : AluOut := adder d (~~~s) false

/-- SUB (R148). -/
def aluSub (s d : Word) : AluOut := adder d (~~~s) true

/-- ADD (R149). -/
def aluAdd (s d : Word) : AluOut := adder d s false

/-- AND (R150). -/
def aluAnd (s d : Word) : AluOut := { r := d &&& s, cout := false }

/-- The skip test on the shifter's outputs (R153). -/
def skipTest (sk : SkipTest) (out : Word) (carry : Bool) : Bool :=
  match sk with
  | .never => false
  | .skp => true
  | .szc => !carry
  | .snc => carry
  | .szr => out == 0
  | .snr => out != 0
  | .sez => !carry || out == 0
  | .sbn => carry && out != 0

end Sys2Proof.Machine
end

