-- ==== Sys2Proof/Machine/Operands.lean ====
section
/-! DEFINITION. Operand forms: the first address of a memory reference (R110), the shifter (R151), bytes (R300), nybbles and
BCD numbers (R280). -/

namespace Sys2Proof.Machine

/-- `sext_16` of an 8-bit displacement (R84). -/
def sext16 (d : BitVec 8) : Word := d.signExtend 16

/-- `zext_16` of an 8-bit value (R84). -/
def zext16 (d : BitVec 8) : Word := d.setWidth 16

/-- The first address of a memory reference instruction (R110); the sums discard carries out of bit 15 (D4). -/
def State.firstAddress (s : State) (m : MemRef) : Word :=
  match m.x with
  | .pageZero => zext16 m.d
  | .relative => s.pc + sext16 m.d
  | .baseA2 => s.a2 + sext16 m.d
  | .baseA3 => s.a3 + sext16 m.d

/-- The shifter on the 17-bit operand CRES, r (R151). -/
def shifter (sh : Shift) (r : Word) (carry : Bool) : AluOut :=
  match sh with
  | .none => { r := r, cout := carry }
  | .left => { r := r.extractLsb' 0 15 ++ BitVec.ofBool carry, cout := r.getLsbD 15 }
  | .right => { r := BitVec.ofBool carry ++ r.extractLsb' 1 15, cout := r.getLsbD 0 }
  | .swap => { r := r.extractLsb' 0 8 ++ r.extractLsb' 8 8, cout := carry }

/-! ## Bytes (R51, R300) -/

/-- The byte of a word that the lowest bit of a byte address selects: 0 the high-order one. -/
def byteOf (w : Word) (low : Bool) : Byte := if low then w.extractLsb' 0 8 else w.extractLsb' 8 8

/-- A word with one of its bytes replaced. -/
def withByte (w : Word) (low : Bool) (v : Byte) : Word :=
  if low then w.extractLsb' 8 8 ++ v else v ++ w.extractLsb' 0 8

/-- The word address of byte address `b` relative to a base word address. -/
def byteWord (base b : Word) : Word := base + b >>> 1

/-- `GetByte(base, b)`. -/
def State.getByte (s : State) (base b : Word) : Byte := byteOf (s.read (byteWord base b)) (b.getLsbD 0)

/-- `PutByte(base, b, v)`: the word is read and written back with one byte replaced. -/
def State.putByte (s : State) (base b : Word) (v : Byte) : State :=
  s.write (byteWord base b) (withByte (s.read (byteWord base b)) (b.getLsbD 0) v)

/-! ## Nybbles and BCD (R52, R280) -/

/-- The nybbles of a word, the high-order one first. -/
def nybbles (w : Word) : List (BitVec 4) :=
  [w.extractLsb' 12 4, w.extractLsb' 8 4, w.extractLsb' 4 4, w.extractLsb' 0 4]

/-- Every nybble is a decimal digit (R284). -/
def bcdValid (w : Word) : Bool := (nybbles w).all fun d => d.toNat ≤ 9

/-- `bcd(v)` (R280). -/
def bcdValue (w : Word) : Nat := (nybbles w).foldl (fun n d => 10 * n + d.toNat) 0

/-- `tobcd(n)` for n in 0..9999 (R280). -/
def toBcd (n : Nat) : Word :=
  BitVec.ofNat 4 (n / 1000 % 10) ++ BitVec.ofNat 4 (n / 100 % 10) ++ BitVec.ofNat 4 (n / 10 % 10) ++ BitVec.ofNat 4 (n % 10)

/-! ## Double words (R10) -/

/-- The 32-bit value of a high-order and a low-order half. -/
def pairValue (hi lo : Word) : Nat := hi.toNat * 65536 + lo.toNat

/-- The high-order half of a 32-bit value. -/
def highHalf (t : Nat) : Word := BitVec.ofNat 16 (t / 65536)

/-- The low-order half of a 32-bit value. -/
def lowHalf (t : Nat) : Word := BitVec.ofNat 16 t

end Sys2Proof.Machine
end

