-- ==== Sys2Proof/Machine/Bus.lean ====
section
/-! DEFINITION. The I/O bus: device registers, flags and pulses (R170 to R191), the processor's control part (R211), I/O
Reset (R392), the data channel (R61, R62, R378) and what devices do on their own (R377). -/

namespace Sys2Proof.Machine

/-! ## One device -/

/-- What a device puts on the data lines for a channel: 8-bit devices reset the high byte (R188). -/
def Device.input (d : Device) (b : Buf) : Word :=
  let v := match b with
    | .bufA => d.inA
    | .bufB => d.inB
    | .bufC => d.inC
  if d.byteWide then v &&& 0o377#16 else v

/-- A device takes a word into an output buffer: 8-bit devices take the low byte (R187). -/
def Device.output (d : Device) (b : Buf) (v : Word) : Device :=
  let v' := if d.byteWide then v &&& 0o377#16 else v
  match b with
  | .bufA => { d with outA := v' }
  | .bufB => { d with outB := v' }
  | .bufC => { d with outC := v' }

/-- A word arrives in an input buffer (R377). -/
def Device.load (d : Device) (b : Buf) (v : Word) : Device :=
  match b with
  | .bufA => { d with inA := v }
  | .bufB => { d with inB := v }
  | .bufC => { d with inC := v }

/-- A control pulse acts on the flags as the device declares (R179 to R181). -/
def Device.pulsed (d : Device) (e : PulseEffect) : Device :=
  { d with busy := e.busy.getD d.busy, done := e.done.getD d.done, intReq := e.intReq.getD d.intReq }

/-- The effect of the control field on a device. -/
def Device.control (d : Device) (f : Ctrl) : Device :=
  match f with
  | .none => d
  | .s => d.pulsed d.onStart
  | .c => d.pulsed d.onClear
  | .p => d.pulsed d.onPulse

/-- The Interrupt Disable flag is loaded from the device's bit of the mask word; a device with no mask bit keeps it (R208,
D31). Manual bit `m` is the bit of weight `2^(15-m)` (R7). -/
def Device.masked (d : Device) (w : Word) : Device :=
  match d.maskBit with
  | some m => { d with intDisable := w.getLsbD (15 - m.val) }
  | none => d

/-- A device raises its request: when it is not disabled, and when it is disabled if it requests `late` (R186, D25). -/
def Device.raises (d : Device) (late : Bool) : Bool := d.intReq || !d.intDisable || late

/-- A started device finishes: Busy cleared, Done set, the request raised (R186, R187). A device that is not busy does
nothing (R377). -/
def Device.complete (d : Device) (late : Bool) : Device :=
  if d.busy then { d with busy := false, done := true, intReq := d.raises late } else d

/-- Input at a device that receives it unasked: the word is in input buffer A, Busy is cleared, Done set, the request
raised (R188). At another device nothing happens (R377). -/
def Device.arrive (d : Device) (v : Word) (late : Bool) : Device :=
  if d.unsolicited then { d with inA := v, busy := false, done := true, intReq := d.raises late } else d

/-- I/O Reset at one device: its flags cleared; its buffers are unspecified afterwards (R42), six free values (log 25). -/
def Device.reset (d : Device) (n : Nat) : Device :=
  { d with busy := false, done := false, intDisable := false, intReq := false
           inA := Config.freeWord n, inB := Config.freeWord (n + 1), inC := Config.freeWord (n + 2)
           outA := Config.freeWord (n + 3), outB := Config.freeWord (n + 4), outC := Config.freeWord (n + 5) }

/-! ## The installed devices -/

/-- The installed device with a code, if there is one. -/
def State.device? (s : State) (d : DevCode) : Option Device := s.devices.find? fun x => x.code == d

/-- A device's state changes. -/
def State.onDevice (s : State) (d : DevCode) (f : Device → Device) : State :=
  { s with devices := s.devices.map fun x => if x.code == d then f x else x }

/-- The I/O history grows (R377). -/
def State.record (s : State) (e : IoEvent) : State := { s with ioTrace := e :: s.ioTrace }

/-- `DevIn(d, buf)`: an absent device reads 000000 (R171, D8). -/
def State.devIn (s : State) (d : DevCode) (b : Buf) : Word :=
  match s.device? d with
  | some x => x.input b
  | none => 0

/-- `DevBusy(d)`: an absent device reads 0 (R171, D8). -/
def State.devBusy (s : State) (d : DevCode) : Bool :=
  match s.device? d with
  | some x => x.busy
  | none => false

/-- `DevDone(d)`: an absent device reads 0 (R171, D8). -/
def State.devDone (s : State) (d : DevCode) : Bool :=
  match s.device? d with
  | some x => x.done
  | none => false

/-- `DevOut(d, buf, v)`: no effect on an absent device (R171). -/
def State.devOut (s : State) (d : DevCode) (b : Buf) (v : Word) : State := s.onDevice d fun x => x.output b v

/-- `DevPulse(d, p)`: the control field of a transfer to a device; no effect on an absent device (R170 to R181). -/
def State.devPulse (s : State) (d : DevCode) (f : Ctrl) : State := s.onDevice d fun x => x.control f

/-- NIO: the pulse (R172). -/
def State.devNio (s : State) (f : Ctrl) (d : DevCode) : State := (s.record (.instr d .nio f)).devPulse d f

/-- An input transfer: first the data, then the pulse (R170). -/
def State.devTransferIn (s : State) (ac : Ac) (f : Ctrl) (d : DevCode) (b : Buf) : State :=
  let v := s.devIn d b
  ((s.setAc ac v).record (.instr d (.input b v) f)).devPulse d f

/-- An output transfer: first the data, then the pulse (R170). -/
def State.devTransferOut (s : State) (ac : Ac) (f : Ctrl) (d : DevCode) (b : Buf) : State :=
  let v := s.ac ac
  ((s.record (.instr d (.output b v) f)).devOut d b v).devPulse d f

/-! ## The processor as device 77 -/

/-- The control part of a code-77 transfer, after its OPCODE part (R202 to R204, R211). P takes the modes from A0, and EIS
only where the jumpers are in place. -/
def State.cpuControl (s : State) (f : Ctrl) : State :=
  match f with
  | .none => s
  | .s => { s with ion := true, ionPending := true }
  | .c => { s with ion := false, ionPending := false }
  | .p => { s with mode64k := s.a0.getLsbD 0, eis := if s.cfg.eisJumpers then s.a0.getLsbD 15 else s.eis }

/-- The word READS reads: the OCU's DATA display, or the mini-switches in the low byte (R205, D27). -/
def State.switchWord (s : State) : Word :=
  if s.cfg.ocuPresent then s.panels.ocuData else zext16 s.panels.miniSwitches

/-- The word INTA reads: the code of the requesting device closest to the processor, 000000 when there is none (R207, D7). -/
def State.interruptAcknowledge (s : State) : Word :=
  match s.devices.find? Device.requesting with
  | some d => d.code.setWidth 16
  | none => 0

/-- MSKO: every device loads its Interrupt Disable flag (R208). -/
def State.maskOut (s : State) (w : Word) : State := { s with devices := s.devices.map fun d => d.masked w }

/-- I/O Reset at every device, each taking six free values. -/
def resetDevices : Nat → List Device → List Device
  | _, [] => []
  | n, d :: t => d.reset n :: resetDevices (n + 6) t

/-- The I/O Reset signal (R392, D11): every device idle, 32K mode, EIS off. -/
def State.ioReset (s : State) : State :=
  { s with devices := resetDevices s.draws s.devices, mode64k := false, eis := false
           draws := s.draws + 6 * s.devices.length }

/-! ## The data channel (R61, R62, R378) -/

/-- The device of a cycle. -/
def DchCycle.device : DchCycle → DevCode
  | .input d _ _ => d
  | .output d _ => d

/-- One cycle: one whole-word access (R61, R64). -/
def State.serveCycle (s : State) (c : DchCycle) : State :=
  match c with
  | .input d a v => (s.store a v).record (.dchInput d a v)
  | .output d a => s.record (.dchOutput d a (s.stored a))

/-- Cycles in the order in which the devices make them, the closest device first (R61); a device that does not use the data
channel or is not started makes none (R190, R377). -/
def servedOrder : List Device → List DchCycle → List DchCycle
  | [], _ => []
  | d :: t, cs =>
    (if d.dch && d.busy then cs.filter fun c => c.device == d.code else []) ++
      servedOrder t (cs.filter fun c => c.device != d.code)

/-- The waiting requests in the order they are served. -/
def State.waitingCycles (s : State) (cs : List DchCycle) : List DchCycle := servedOrder s.devices cs

/-- The next instruction word as it has been fetched (R36, R68). A stopped processor has fetched it too, as its last act
before the stop (R363). DESIGN CHOICE (log 19): the word at pc counts as fetched also where no fetch at that pc is stated,
after EXAM, EXAM NEXT, EXAM PREV or DEP NEXT has set the pc and after a power turn-on that leaves the processor stopped. -/
def State.fetchedAhead (s : State) : Option Word :=
  if s.hung.isNone then some (s.ahead.getD (s.read s.pc)) else none

/-- How many of the waiting cycles are performed now: all of them (R62); while PWRFAIL is set one between two turns of the
processor (R63, R349). The others wait for a later act (log 24). -/
def State.admitted (s : State) (cs : List DchCycle) : List DchCycle :=
  if s.pwrFail then (if s.dchServed then [] else cs.take 1) else cs

/-- The data channel is served (R61 to R63, R349). -/
def State.dataChannel (s : State) (cs : List DchCycle) (stale : Bool) : State :=
  match s.admitted (s.waitingCycles cs) with
  | [] => s
  | c :: rest =>
    (c :: rest).foldl State.serveCycle
      { s with ahead := if stale then s.fetchedAhead else none, dchServed := s.pwrFail }

/-- What a device or the power monitor does on its own (R377, R348). -/
def State.applyEnv (s : State) (e : EnvEvent) : State :=
  match e with
  | .dataChannel cs stale => s.dataChannel cs stale
  | .completes d late => s.onDevice d fun x => x.complete late
  | .arrives d v late => s.onDevice d fun x => x.arrive v late
  | .loads d b v => s.onDevice d fun x => x.load b v
  | .powerFailing => { s with pwrFail := true }

/-- Acts between two iterations of a long EIS instruction (R326): the next entry of the list, if it is such an entry. No
word is fetched ahead there. The next iteration is the processor's turn (R349). -/
def State.between (s : State) : State :=
  match s.inputs with
  | .between es :: rest => { es.foldl State.applyEnv { s with inputs := rest } with ahead := none }
  | _ => s

end Sys2Proof.Machine
end

