-- ==== Sys2Proof/Machine/MemoryReference.lean ====
section
/-! DEFINITION. The memory reference instructions JMP, JSR, ISZ, DSZ, LDA, STA (spec/40_memory_reference.md). -/

namespace Sys2Proof.Machine

/-- What a meaning answers. -/
abbrev Answer := Host.Outcome State Fault Refusal

/-- The operation at effective address `e` (R114 to R119). -/
def MemOp.perform (op : MemOp) (e : Word) (s : State) : State :=
  match op with
  | .jmp => s.complete e
  | .jsr => (s.setAc .a3 (s.pc + 1)).complete e
  | .isz => (s.write e (s.read e + 1)).advance 1 (s.read e + 1 == 0)
  | .dsz => (s.write e (s.read e - 1)).advance 1 (s.read e - 1 == 0)
  | .lda ac => (s.setAc ac (s.read e)).advance 1 false
  | .sta ac => (s.write e (s.ac ac)).advance 1 false

/-- An instruction that does not complete in this step (R113, R324). -/
def State.goesOn (s : State) (what : Endless) : State :=
  { s with hung := some { what := what, traced := false, stepping := false } }

/-- A memory reference instruction: the effective address (R110, R111), then the operation. -/
def memRef (op : MemOp) (m : MemRef) (s : State) : State :=
  if m.ind then
    match s.chain (s.firstAddress m) with
    | .address e s1 => op.perform e s1
    | .more ea s1 => s1.goesOn (.chain op ea)
  else op.perform (s.firstAddress m) s

/-- JMP (R114). -/
def execJmp (m : MemRef) (s : State) : Answer := .next (memRef .jmp m s)

/-- JSR (R115). -/
def execJsr (m : MemRef) (s : State) : Answer := .next (memRef .jsr m s)

/-- ISZ (R116). -/
def execIsz (m : MemRef) (s : State) : Answer := .next (memRef .isz m s)

/-- DSZ (R117). -/
def execDsz (m : MemRef) (s : State) : Answer := .next (memRef .dsz m s)

/-- LDA (R118). -/
def execLda (ac : Ac) (m : MemRef) (s : State) : Answer := .next (memRef (.lda ac) m s)

/-- STA (R119). -/
def execSta (ac : Ac) (m : MemRef) (s : State) : Answer := .next (memRef (.sta ac) m s)

end Sys2Proof.Machine
end

