-- ==== Sys2Proof/Machine/ArithmeticLogic.lean ====
section
/-! DEFINITION. The arithmetic and logical instructions COM, NEG, MOV, INC, ADC, SUB, ADD, AND
(spec/41_arithmetic_logic.md). -/

namespace Sys2Proof.Machine

/-- The outputs of the shifter: `out` and CNEW (R140, R151). -/
def aluOutputs (fn : Word → Word → AluOut) (f : AluFields) (s : State) : AluOut :=
  let o := fn (s.ac f.acs) (s.ac f.acd)
  shifter f.sh o.r (carrySelect f.cy s.c ^^ o.cout)

/-- The processing pipeline shared by the eight instructions (R140): carry preselect, ALU function, shifter, load unless NL
(R152), skip test (R153). -/
def aluRun (fn : Word → Word → AluOut) (f : AluFields) (s : State) : State :=
  let o := aluOutputs fn f s
  let s1 := if f.nl then s else { s.setAc f.acd o.r with c := o.cout }
  s1.advance 1 (skipTest f.sk o.r o.cout)

/-- COM (R143). -/
def execCom (f : AluFields) (s : State) : Answer := .next (aluRun aluCom f s)

/-- NEG (R144). -/
def execNeg (f : AluFields) (s : State) : Answer := .next (aluRun aluNeg f s)

/-- MOV (R145). -/
def execMov (f : AluFields) (s : State) : Answer := .next (aluRun aluMov f s)

/-- INC (R146). -/
def execInc (f : AluFields) (s : State) : Answer := .next (aluRun aluInc f s)

/-- ADC (R147). -/
def execAdc (f : AluFields) (s : State) : Answer := .next (aluRun aluAdc f s)

/-- SUB (R148). -/
def execSub (f : AluFields) (s : State) : Answer := .next (aluRun aluSub f s)

/-- ADD (R149). -/
def execAdd (f : AluFields) (s : State) : Answer := .next (aluRun aluAdd f s)

/-- AND (R150). -/
def execAnd (f : AluFields) (s : State) : Answer := .next (aluRun aluAnd f s)

end Sys2Proof.Machine
end

