-- ==== Sys2Proof/Machine/EisBit.lean ====
section
/-! DEFINITION. The extended bit manipulation and test instructions (spec/44_eis_immediate_bit.md R239 to R251). -/

namespace Sys2Proof.Machine

/-- The test of a bit instruction: none, SBZ's, or SBO's (R239). -/
inductive BitTest where
  | none | zeros | ones
deriving DecidableEq, Repr

/-- The skip decision, on the operand as it was (R239, R251). -/
def BitTest.skips (t : BitTest) (opnd mask : Word) : Bool :=
  match t with
  | .none => false
  | .zeros => opnd &&& mask == 0
  | .ones => opnd &&& mask != 0

/-- The actions (R239): no change, clear, set, toggle. -/
def bitKeep (opnd _mask : Word) : Word := opnd
def bitClear (opnd mask : Word) : Word := opnd &&& ~~~mask
def bitSet (opnd mask : Word) : Word := opnd ||| mask
def bitToggle (opnd mask : Word) : Word := opnd ^^^ mask

/-- The operand: A0, or with `@` the word at (A1)+(A2) (R239). -/
def State.bitOperand (s : State) (ind : Bool) : Word := if ind then s.read (s.a1 + s.a2) else s.a0

/-- The common part (R239): the result goes to A0 and, with `@`, to the addressed location; the skip passes over the word
after the mask. -/
def bitRun (t : BitTest) (act : Word → Word → Word) (ind : Bool) (mask : Word) (s : State) : State :=
  let opnd := s.bitOperand ind
  let res := act opnd mask
  let s1 : State := { s with a0 := res }
  let s2 := if ind then s1.write (s.a1 + s.a2) res else s1
  s2.advance 2 (t.skips opnd mask)

/-- CLRB (R240). -/
def execClrb (ind : Bool) (mask : Word) (s : State) : Answer := .next (bitRun .none bitClear ind mask s)

/-- SETB (R241). -/
def execSetb (ind : Bool) (mask : Word) (s : State) : Answer := .next (bitRun .none bitSet ind mask s)

/-- TOGB (R242). -/
def execTogb (ind : Bool) (mask : Word) (s : State) : Answer := .next (bitRun .none bitToggle ind mask s)

/-- SBZ (R243). -/
def execSbz (ind : Bool) (mask : Word) (s : State) : Answer := .next (bitRun .zeros bitKeep ind mask s)

/-- SBO (R244). -/
def execSbo (ind : Bool) (mask : Word) (s : State) : Answer := .next (bitRun .ones bitKeep ind mask s)

/-- SBZC (R245). -/
def execSbzc (ind : Bool) (mask : Word) (s : State) : Answer := .next (bitRun .zeros bitClear ind mask s)

/-- SBOC (R246). -/
def execSboc (ind : Bool) (mask : Word) (s : State) : Answer := .next (bitRun .ones bitClear ind mask s)

/-- SBZS (R247). -/
def execSbzs (ind : Bool) (mask : Word) (s : State) : Answer := .next (bitRun .zeros bitSet ind mask s)

/-- SBOS (R248). -/
def execSbos (ind : Bool) (mask : Word) (s : State) : Answer := .next (bitRun .ones bitSet ind mask s)

/-- SBZT (R249). -/
def execSbzt (ind : Bool) (mask : Word) (s : State) : Answer := .next (bitRun .zeros bitToggle ind mask s)

/-- SBOT (R250). -/
def execSbot (ind : Bool) (mask : Word) (s : State) : Answer := .next (bitRun .ones bitToggle ind mask s)

end Sys2Proof.Machine
end

