-- ==== Sys2Proof/Machine/EisByte.lean ====
section
/-! DEFINITION. The extended byte instructions and XTRANSLATE (spec/47_eis_byte.md). Carry is unchanged (R301). -/

namespace Sys2Proof.Machine

/-- The base word address of the extended gets: cell 40 (R34, R306). -/
def State.readBase (s : State) : Word := s.read 0o40#16

/-- The base word address of the extended puts: cell 41 (R34, R307). -/
def State.writeBase (s : State) : Word := s.read 0o41#16

/-- The byte in the low-order half of A0 (R301). -/
def State.a0Byte (s : State) : Byte := s.a0.extractLsb' 0 8

/-- A0 takes a byte, its high-order half zeroed (R301). -/
def State.gotByte (s : State) (b : Byte) : State := { s with a0 := zext16 b }

/-- GETBYTE (R302). -/
def execGetbyte (s : State) : Answer := .next ((s.gotByte (s.getByte 0 s.a1)).advance 1 false)

/-- PUTBYTE (R303). -/
def execPutbyte (s : State) : Answer := .next ((s.putByte 0 s.a1 s.a0Byte).advance 1 false)

/-- SGETBYTE (R304). -/
def execSgetbyte (s : State) : Answer :=
  .next (({ s.gotByte (s.getByte 0 s.a2) with a2 := s.a2 + 1 } : State).advance 1 false)

/-- SPUTBYTE (R305). -/
def execSputbyte (s : State) : Answer :=
  .next (({ s.putByte 0 s.a1 s.a0Byte with a1 := s.a1 + 1 } : State).advance 1 false)

/-- XGETBYTE (R306). -/
def execXgetbyte (s : State) : Answer := .next ((s.gotByte (s.getByte s.readBase s.a1)).advance 1 false)

/-- XPUTBYTE (R307). -/
def execXputbyte (s : State) : Answer := .next ((s.putByte s.writeBase s.a1 s.a0Byte).advance 1 false)

/-- XSGETBYTE (R308). -/
def execXsgetbyte (s : State) : Answer :=
  .next (({ s.gotByte (s.getByte s.readBase s.a2) with a2 := s.a2 + 1 } : State).advance 1 false)

/-- XSPUTBYTE (R309). -/
def execXsputbyte (s : State) : Answer :=
  .next (({ s.putByte s.writeBase s.a1 s.a0Byte with a1 := s.a1 + 1 } : State).advance 1 false)

/-- IGETBYTE (R310): the pointer cell at (A2)+displacement is advanced before use; at the limit in A1 nothing happens and
no skip occurs. The comparison is unsigned (D15). -/
def execIgetbyte (disp : BitVec 4) (s : State) : Answer :=
  let p := s.a2 + disp.setWidth 16
  let b := s.read p
  .next (if s.a1 ≤ b then s.advance 1 false
    else
      let s1 := s.write p (b + 1)
      (s1.gotByte (s1.getByte 0 (b + 1))).advance 1 true)

/-- IPUTBYTE (R311). -/
def execIputbyte (disp : BitVec 4) (s : State) : Answer :=
  let p := s.a2 + disp.setWidth 16
  let b := s.read p
  .next (if s.a1 ≤ b then s.advance 1 false
    else ((s.write p (b + 1)).putByte 0 (b + 1) s.a0Byte).advance 1 true)

/-- Where entry 0 of the translation table lies (R312, D19; log 10). -/
def State.tableBase (s : State) : Word :=
  match s.cfg.tableBase with
  | .atPc => s.pc
  | .afterPc => s.pc + 1

/-- XTRANSLATE (R312): it always jumps. -/
def execXtranslate (s : State) : Answer :=
  let ch := zext16 (s.getByte s.readBase s.a1)
  let t := s.read (s.tableBase + ch)
  let s1 : State := { s with a1 := s.a1 + 1, a0 := ch }
  .next (if 0o377#16 < t then s1.complete t else ({ s1 with a0 := t } : State).complete s.a3)

end Sys2Proof.Machine
end

