-- ==== Sys2Proof/Machine/EisImmediate.lean ====
section
/-! DEFINITION. The extended immediate instructions (spec/44_eis_immediate_bit.md R232 to R238). -/

namespace Sys2Proof.Machine

/-- SLEI (R232), unsigned. -/
def execSlei (k : BitVec 8) (s : State) : Answer := .next (s.advance 1 (s.a0 ≤ zext16 k))

/-- SGRI (R233), unsigned. -/
def execSgri (k : BitVec 8) (s : State) : Answer := .next (s.advance 1 (zext16 k < s.a0))

/-- SEQI (R234). -/
def execSeqi (k : BitVec 8) (s : State) : Answer := .next (s.advance 1 (s.a0 == zext16 k))

/-- SNEI (R235). -/
def execSnei (k : BitVec 8) (s : State) : Answer := .next (s.advance 1 (s.a0 != zext16 k))

/-- LDI (R236). -/
def execLdi (k : BitVec 8) (s : State) : Answer := .next (({ s with a0 := zext16 k } : State).advance 1 false)

/-- A0 takes the sum and the carry is toggled by the carry out (R237, R238). -/
def State.addToA0 (s : State) (o : AluOut) : State :=
  ({ s with a0 := o.r, c := s.c ^^ o.cout } : State).advance 1 false

/-- ADI (R237): as ADD. -/
def execAdi (k : BitVec 8) (s : State) : Answer := .next (s.addToA0 (aluAdd (zext16 k) s.a0))

/-- SBI (R238): as SUB (C13). -/
def execSbi (k : BitVec 8) (s : State) : Answer := .next (s.addToA0 (aluSub (zext16 k) s.a0))

end Sys2Proof.Machine
end

