-- ==== Sys2Proof/Machine/EisNybble.lean ====
section
/-! DEFINITION. The extended nybble and decimal instructions, extended load and store, and the vectored subroutine jump
(spec/46_eis_nybble_loadstore_vjsr.md). In the two nybble shifts data channel cycles may fall between iterations (`live`),
not inside a TRACE (R325, R326). -/

namespace Sys2Proof.Machine

/-- Acts that fall between two iterations, where the instruction admits them. -/
def State.gap (s : State) (live : Bool) : State := if live then s.between else s

/-- One word of NYBSL: the word at `base + i` shifted left with `nyb` entering (R281). -/
def nybslWord (base : Word) (i : Nat) (nyb : BitVec 4) (s : State) : State :=
  let a := base + BitVec.ofNat 16 i
  s.write a ((s.read a).extractLsb' 0 12 ++ nyb)

/-- The nybble that leaves the word at `base + i` at its high-order end. -/
def nybslOut (base : Word) (i : Nat) (s : State) : BitVec 4 := (s.read (base + BitVec.ofNat 16 i)).extractLsb' 12 4

/-- The words `base + i` down to `base` (R281): the nybble shifted out at the top, and the state. -/
def nybslLoop (live : Bool) (base : Word) : Nat → BitVec 4 → State → BitVec 4 × State
  | 0, nyb, s => (nybslOut base 0 s, nybslWord base 0 nyb s)
  | i + 1, nyb, s => nybslLoop live base i (nybslOut base (i + 1) s) ((nybslWord base (i + 1) nyb s).gap live).proceeds

/-- NYBSL (R281): carry is a free value (D35). -/
def nybslRun (live : Bool) (s : State) : State :=
  let (nyb, s1) := nybslLoop live s.a2 s.a0.toNat (s.a1.extractLsb' 0 4) s
  let s2 : State :=
    { s1 with a1 := nyb.setWidth 16, a0 := (s1.read s.a2).extractLsb' 12 4 ++ 0#12, c := s1.freeBit }
  (s2.drawn 1).advance 1 false

/-- NYBSL (R281). -/
def execNybsl (s : State) : Answer := .next (nybslRun true s)

/-- One word of NYBSR (R282). -/
def nybsrWord (a : Word) (nyb : BitVec 4) (s : State) : State := s.write a (nyb ++ (s.read a).extractLsb' 4 12)

/-- The nybble that leaves the word at `a` at its low-order end. -/
def nybsrOut (a : Word) (s : State) : BitVec 4 := (s.read a).extractLsb' 0 4

/-- The word at `a` and the `n` words after it (R282): the nybble shifted out at the bottom, and the state. -/
def nybsrLoop (live : Bool) : Nat → Word → BitVec 4 → State → BitVec 4 × State
  | 0, a, nyb, s => (nybsrOut a s, nybsrWord a nyb s)
  | n + 1, a, nyb, s => nybsrLoop live n (a + 1) (nybsrOut a s) ((nybsrWord a nyb s).gap live).proceeds

/-- NYBSR (R282): carry is the rounding indicator, A1 a free value (D35). -/
def nybsrRun (live : Bool) (s : State) : State :=
  let (nyb, s1) := nybsrLoop live s.a0.toNat s.a2 (s.a1.extractLsb' 0 4) s
  let s2 : State :=
    { s1 with c := 5#4 ≤ nyb, a0 := 0o177777#16, a1 := s1.freeWord, a2 := s.a2 + s.a0 + 1 }
  (s2.drawn 1).advance 1 false

/-- NYBSR (R282). -/
def execNybsr (s : State) : Answer := .next (nybsrRun true s)

/-- DECADD or DECSUB of operands with a nybble of ten or more: A0 and C are free values (R284, D17; log 14). -/
def State.bcdUnstated (s : State) : State :=
  (({ s with a0 := s.freeWord, c := s.freeBit } : State).drawn 1).advance 1 false

/-- Are both operands of a decimal instruction BCD numbers? -/
def State.bcdOperands (s : State) : Bool := bcdValid s.a0 && bcdValid s.a1

/-- DECADD (R283): the carry is set or cleared. -/
def execDecadd (s : State) : Answer :=
  let t := bcdValue s.a0 + bcdValue s.a1 + s.c.toNat
  .next (if s.bcdOperands then ({ s with a0 := toBcd (t % 10000), c := 10000 ≤ t } : State).advance 1 false
    else s.bcdUnstated)

/-- DECSUB (R285): carry in 1 means no borrow in, carry out 1 no borrow; on borrow the ten's-complement wrap (D34). -/
def execDecsub (s : State) : Answer :=
  let take := bcdValue s.a1 + (!s.c).toNat
  .next (if s.bcdOperands then
      ({ s with a0 := toBcd ((bcdValue s.a0 + 10000 - take) % 10000), c := take ≤ bcdValue s.a0 } : State).advance 1 false
    else s.bcdUnstated)

/-- CONVERT with A1, A2 and the carry as given: A1 and A2 are free values (D17, D18). -/
def State.convertUnstated (s : State) (carry : Bool) : State :=
  (({ s with a1 := s.freeWord, a2 := (s.drawn 1).freeWord, c := carry } : State).drawn 2).advance 1 false

/-- CONVERT (R286): the whole 16-bit A0 is added. A1 and A2 after an overflow are free values (D18); where A0 has a nybble of
ten or more, A1, A2 and C are (D17; log 15). -/
def execConvert (s : State) : Answer :=
  let t := pairValue s.a1 s.a2 * 10 + s.a0.toNat
  .next (if !bcdValid s.a0 then s.convertUnstated s.freeBit
    else if t < 2 ^ 32 then ({ s with a1 := highHalf t, a2 := lowHalf t, c := false } : State).advance 1 false
    else s.convertUnstated true)

/-- VJSR (R287): the table precedes the interrupt service routine that location 1 points to. -/
def execVjsr (subnum : BitVec 5) (s : State) : Answer :=
  let target := s.read (s.read 0o1#16 - subnum.setWidth 16 - 1)
  .next ((s.setAc .a3 (s.pc + 1)).complete target)

/-- XLOAD (R288). -/
def execXload (s : State) : Answer :=
  .next (({ s with a0 := s.read (s.read 0o40#16 + s.a2) } : State).advance 1 false)

/-- XSTORE (R289). -/
def execXstore (s : State) : Answer := .next ((s.write (s.read 0o41#16 + s.a2) s.a0).advance 1 false)

end Sys2Proof.Machine
end

