-- ==== Sys2Proof/Machine/EisMove.lean ====
section
/-! DEFINITION. Binary multiply and divide, block move and table search (spec/48_eis_muldiv_move_trace.md R320 to R324). -/

namespace Sys2Proof.Machine

/-- ABINMULTIPLY (R320): carry is a free value (D35). -/
def execAbinmultiply (s : State) : Answer :=
  let t := s.a0.toNat * s.a2.toNat + s.a1.toNat
  .next ((({ s with a1 := highHalf t, a2 := lowHalf t, c := s.freeBit } : State).drawn 1).advance 1 false)

/-- BINDIVIDE (R321): overflow when A0 is not greater than A1 (division by zero included): carry is set and A1, A2 are free
values (D18). -/
def execBindivide (s : State) : Answer :=
  let n := pairValue s.a1 s.a2
  .next (if s.a0 ≤ s.a1 then
      (({ s with a1 := s.freeWord, a2 := (s.drawn 1).freeWord, c := true } : State).drawn 2).advance 1 false
    else
      ({ s with a2 := BitVec.ofNat 16 (n / s.a0.toNat), a1 := BitVec.ofNat 16 (n % s.a0.toNat), c := false }
        : State).advance 1 false)

/-- A long instruction stops between iterations for an interrupt: only under `per_iteration` (R326; log 11). -/
def State.pauses (s : State) : Bool := s.cfg.longPoints == .perIteration && s.interruptDue

/-- One word of MOVEWORDS (R322). -/
def moveWord (s : State) : State :=
  { s.write (s.a2 + s.a0) (s.read (s.a1 + s.a0)) with a0 := s.a0 - 1 }

/-- One word of RMOVWORDS (R323). -/
def rmoveWord (s : State) : State :=
  { s.write (s.a2 - s.a0) (s.read (s.a1 - s.a0)) with a0 := s.a0 - 1 }

/-- `n + 1` iterations of a block move; false when it stopped part-way for an interrupt. -/
def moveLoop (live : Bool) (word : State → State) : Nat → State → State × Bool
  | 0, s => (word s, true)
  | n + 1, s =>
    let s1 := (word s).gap live
    if live && s1.pauses then (s1, false) else moveLoop live word n s1.proceeds

/-- A block move: A0 + 1 words, then the carry is zero. Stopped part-way, the pc still addresses the instruction and A0
says how much is left (R326); DESIGN CHOICE (log 11): that boundary is like every other, so that a STOP or another act listed
next takes place there, before the interrupt entry and in the middle of the move. -/
def moveRun (live : Bool) (word : State → State) (s : State) : State :=
  let (s1, finished) := moveLoop live word s.a0.toNat s
  if finished then ({ s1 with c := false } : State).advance 1 false else s1

/-- MOVEWORDS (R322). -/
def execMovewords (s : State) : Answer := .next (moveRun true moveWord s)

/-- RMOVWORDS (R323). -/
def execRmovwords (s : State) : Answer := .next (moveRun true rmoveWord s)

/-- Where a search is after some iterations. -/
inductive Search where
  /-- The word was found at A2. -/
  | found (s : State)
  /-- A2 has reached A3. -/
  | missed (s : State)
  /-- It stopped for an interrupt. -/
  | paused (s : State)
  /-- It goes on. -/
  | more (s : State)

/-- At most `n` comparisons of TABLSEARCH (R324); the comparison with A3 is unsigned (D15). Device acts fall between two of
them; after the last of `n` a boundary of the machine follows, where they fall in any case. -/
def searchLoop (live : Bool) : Nat → State → Search
  | 0, s => .more s
  | n + 1, s =>
    if s.read s.a2 == s.a0 then .found s
    else
      let s1 : State := { s with a2 := s.a2 + s.a1 }
      if s1.a3 ≤ s1.a2 then .missed s1
      else
        let s2 := s1.gap (live && n != 0)
        if live && s2.pauses then .paused s2 else searchLoop live n s2.proceeds

/-- How many comparisons TABLSEARCH makes in one step; a longer search goes on from step to step (R324; log 18). -/
def searchSteps : Nat := 65536

/-- The end of some comparisons of TABLSEARCH. -/
def Search.state (r : Search) : State :=
  match r with
  | .found s => s.advance 1 true
  | .missed s => s.advance 1 false
  | .paused s => s
  | .more s => s.goesOn .search

/-- TABLSEARCH (R324). -/
def searchRun (live : Bool) (s : State) : State := (searchLoop live searchSteps s).state

/-- TABLSEARCH (R324). -/
def execTablsearch (s : State) : Answer := .next (searchRun true s)

end Sys2Proof.Machine
end

