-- ==== Sys2Proof/Machine/EisStack.lean ====
section
/-! DEFINITION. The extended stack instructions (spec/45_eis_stack.md). (SB), (FP), (SL) are the memory cells 45, 46, 47 read
at the moment of the test (R260); the comparisons are unsigned (R261, D13). -/

namespace Sys2Proof.Machine

/-- SETSP (R262). -/
def execSetsp (ac : Ac) (s : State) : Answer := .next (({ s with sp := s.ac ac } : State).advance 1 false)

/-- REDSP (R263). -/
def execRedsp (ac : Ac) (s : State) : Answer := .next ((s.setAc ac s.sp).advance 1 false)

/-- A word is pushed: SP is decremented and the word stored there (R264, R266). -/
def State.pushed (s : State) (v : Word) : State := ({ s with sp := s.sp - 1 } : State).write (s.sp - 1) v

/-- The overflow test after a push: SP below (SL) (R264). -/
def State.overflows (s : State) : Bool := s.sp < s.read 0o47#16

/-- The underflow test after a pop: SP above (FP) (R265). -/
def State.underflows (s : State) : Bool := s.read 0o46#16 < s.sp

/-- PUSH (R264): the word is stored before the limit is tested. -/
def execPush (ac : Ac) (s : State) : Answer :=
  let s1 := s.pushed (s.ac ac)
  .next (if s1.overflows then s1.stackFault (s.pc + 1) else s1.advance 1 false)

/-- POP (R265): the accumulator is loaded and SP incremented even when the fault is taken. -/
def execPop (ac : Ac) (s : State) : Answer :=
  let s1 : State := { s.setAc ac (s.read s.sp) with sp := s.sp + 1 }
  .next (if s1.underflows then s1.stackFault (s.pc + 1) else s1.advance 1 false)

/-- The PUSHJUMP family: the address after the two words is pushed, then the jump; on overflow the pc that the fault saves
is a free value (R266, D14). -/
def pushJumpTo (target : Word) (s : State) : State :=
  let s1 := s.pushed (s.pc + 2)
  if s1.overflows then (s1.drawn 1).stackFault s1.freeWord else s1.complete target

/-- PUSHJUMP (R266). -/
def execPushjump (address : Word) (s : State) : Answer := .next (pushJumpTo address s)

/-- RPUSHJUMP (R267): relative to the address of the instruction's first word (D37). -/
def execRpushjump (disp : Word) (s : State) : Answer := .next (pushJumpTo (s.pc + disp) s)

/-- I2PUSHJUMP (R268). -/
def execI2pushjump (disp : Word) (s : State) : Answer := .next (pushJumpTo (s.a2 + disp) s)

/-- I3PUSHJUMP (R269). -/
def execI3pushjump (disp : Word) (s : State) : Answer := .next (pushJumpTo (s.a3 + disp) s)

/-- POPJUMP (R270): on underflow SP stays incremented and the return address is not read. -/
def execPopjump (s : State) : Answer :=
  let s1 : State := { s with sp := s.sp + 1 }
  .next (if s1.underflows then s1.stackFault (s.pc + 1) else s1.complete (s1.read (s1.sp - 1)))

end Sys2Proof.Machine
end

