-- ==== Sys2Proof/Machine/IoCpu.lean ====
section
/-! DEFINITION. The special code 77 (CPU) instructions (spec/43_io_cpu.md). There is no privilege: every program may execute
them (R355). First the OPCODE part, then the control part (R200, R211). -/

namespace Sys2Proof.Machine

/-- A code-77 transfer is recorded (R377) and completes, and its control part follows: an S pulse leaves ION_PENDING set
(R211, R345). -/
def State.cpuDone (s : State) (act : IoAction) (f : Ctrl) : State :=
  ((s.record (.instr cpuCode act f)).advance 1 false).cpuControl f

/-- A skip instruction on device 77 is recorded and completes; its CTRL field says which test it is (R212 to R215). -/
def State.cpuTested (s : State) (test : Ctrl) (skips : Bool) : State :=
  (s.record (.instr cpuCode .skip test)).advance 1 skips

/-- NIO CPU (R201): no action. -/
def execNioCpu (_ac : Ac) (s : State) : Answer := .next (s.cpuDone .nio .none)

/-- INTEN = NIOS CPU (R202). -/
def execInten (_ac : Ac) (s : State) : Answer := .next (s.cpuDone .nio .s)

/-- INTDS = NIOC CPU (R203). -/
def execIntds (_ac : Ac) (s : State) : Answer := .next (s.cpuDone .nio .c)

/-- NIOP CPU (R204). -/
def execNiopCpu (_ac : Ac) (s : State) : Answer := .next (s.cpuDone .nio .p)

/-- READS = DIA ac,CPU (R205). -/
def execReads (ac : Ac) (f : Ctrl) (s : State) : Answer :=
  .next ((s.setAc ac s.switchWord).cpuDone (.input .bufA s.switchWord) f)

/-- DOA ac,CPU: "DOA is not defined" (R206, D21). -/
def execDoaCpu (_ac : Ac) (_f : Ctrl) (_s : State) : Answer := .refused .doaCpuNotDefined

/-- INTA = DIB ac,CPU (R207). -/
def execInta (ac : Ac) (f : Ctrl) (s : State) : Answer :=
  .next ((s.setAc ac s.interruptAcknowledge).cpuDone (.input .bufB s.interruptAcknowledge) f)

/-- MSKO = DOB ac,CPU (R208). -/
def execMsko (ac : Ac) (f : Ctrl) (s : State) : Answer :=
  .next ((s.maskOut (s.ac ac)).cpuDone (.output .bufB (s.ac ac)) f)

/-- DIC ac,CPU (R209): I/O Reset; the accumulator is not changed. -/
def execDicCpu (_ac : Ac) (f : Ctrl) (s : State) : Answer := .next (s.ioReset.cpuDone .ioReset f)

/-- IORST = DICC 0,CPU (R209): I/O Reset, then ION cleared by the C pulse. -/
def execIorst (s : State) : Answer := .next (s.ioReset.cpuDone .ioReset .c)

/-- HALT = DOC ac,CPU (R210): the processor stops, the pc at the word after (D12). -/
def execHalt (_ac : Ac) (f : Ctrl) (s : State) : Answer := .next (({ s with run := false } : State).cpuDone .halt f)

/-- SKPBN CPU (R212): Busy of device 77 is ION. -/
def execSkpbnCpu (_ac : Ac) (s : State) : Answer := .next (s.cpuTested .none s.ion)

/-- SKPBZ CPU (R213). -/
def execSkpbzCpu (_ac : Ac) (s : State) : Answer := .next (s.cpuTested .s (!s.ion))

/-- SKPDN CPU (R214): Done of device 77 is PWRFAIL. -/
def execSkpdnCpu (_ac : Ac) (s : State) : Answer := .next (s.cpuTested .c s.pwrFail)

/-- SKPDZ CPU (R215). -/
def execSkpdzCpu (_ac : Ac) (s : State) : Answer := .next (s.cpuTested .p (!s.pwrFail))

end Sys2Proof.Machine
end

