-- ==== Sys2Proof/Machine/IoRegular.lean ====
section
/-! DEFINITION. The regular input/output instructions, device codes 00 to 76 (spec/42_io_regular.md). Carry, memory and the
other accumulators are not touched (R170). -/

namespace Sys2Proof.Machine

/-- A skip instruction's test is recorded (R377); its CTRL field says which test it is (R182 to R185). -/
def State.devTested (s : State) (d : DevCode) (test : Ctrl) : State := s.record (.instr d .skip test)

/-- NIO (R172): the pulse only; the AC field has no effect. -/
def execNio (_ac : Ac) (f : Ctrl) (d : DevCode) (s : State) : Answer := .next ((s.devNio f d).advance 1 false)

/-- DIA (R173). -/
def execDia (ac : Ac) (f : Ctrl) (d : DevCode) (s : State) : Answer :=
  .next ((s.devTransferIn ac f d .bufA).advance 1 false)

/-- DOA (R174). -/
def execDoa (ac : Ac) (f : Ctrl) (d : DevCode) (s : State) : Answer :=
  .next ((s.devTransferOut ac f d .bufA).advance 1 false)

/-- DIB (R175). -/
def execDib (ac : Ac) (f : Ctrl) (d : DevCode) (s : State) : Answer :=
  .next ((s.devTransferIn ac f d .bufB).advance 1 false)

/-- DOB (R176). -/
def execDob (ac : Ac) (f : Ctrl) (d : DevCode) (s : State) : Answer :=
  .next ((s.devTransferOut ac f d .bufB).advance 1 false)

/-- DIC (R177). -/
def execDic (ac : Ac) (f : Ctrl) (d : DevCode) (s : State) : Answer :=
  .next ((s.devTransferIn ac f d .bufC).advance 1 false)

/-- DOC (R178). -/
def execDoc (ac : Ac) (f : Ctrl) (d : DevCode) (s : State) : Answer :=
  .next ((s.devTransferOut ac f d .bufC).advance 1 false)

/-- SKPBN (R182). -/
def execSkpbn (_ac : Ac) (d : DevCode) (s : State) : Answer := .next ((s.devTested d .none).advance 1 (s.devBusy d))

/-- SKPBZ (R183). -/
def execSkpbz (_ac : Ac) (d : DevCode) (s : State) : Answer := .next ((s.devTested d .s).advance 1 (!s.devBusy d))

/-- SKPDN (R184). -/
def execSkpdn (_ac : Ac) (d : DevCode) (s : State) : Answer := .next ((s.devTested d .c).advance 1 (s.devDone d))

/-- SKPDZ (R185). -/
def execSkpdz (_ac : Ac) (d : DevCode) (s : State) : Answer := .next ((s.devTested d .p).advance 1 (!s.devDone d))

end Sys2Proof.Machine
end

