-- ==== Sys2Proof/Machine/Trace.lean ====
section
/-! DEFINITION. TRACE (spec/48_eis_muldiv_move_trace.md R325) and the unassigned words of the NOP-skip space (R94). -/

namespace Sys2Proof.Machine

/-- A word of the NOP-skip space with EIS = 1 that is no documented extended instruction (R94, D22). -/
def execEisUnassigned (_w : Word) (_s : State) : Answer := .refused .eisUnassigned

/-- The remote instruction of a TRACE. A remote TRACE or HALT is refused (D29); the whole TRACE is one instruction for the
data channel and for interrupts, so that the long instructions have no gaps there (log 33). -/
def remote (i : Instr) (s : State) : Answer :=
  match i with
  | .jmp m => execJmp m s
  | .jsr m => execJsr m s
  | .isz m => execIsz m s
  | .dsz m => execDsz m s
  | .lda ac m => execLda ac m s
  | .sta ac m => execSta ac m s
  | .com f => execCom f s
  | .neg f => execNeg f s
  | .mov f => execMov f s
  | .inc f => execInc f s
  | .adc f => execAdc f s
  | .sub f => execSub f s
  | .add f => execAdd f s
  | .and_ f => execAnd f s
  | .nio ac f d => execNio ac f d s
  | .dia ac f d => execDia ac f d s
  | .doa ac f d => execDoa ac f d s
  | .dib ac f d => execDib ac f d s
  | .dob ac f d => execDob ac f d s
  | .dic ac f d => execDic ac f d s
  | .doc ac f d => execDoc ac f d s
  | .skpbn ac d => execSkpbn ac d s
  | .skpbz ac d => execSkpbz ac d s
  | .skpdn ac d => execSkpdn ac d s
  | .skpdz ac d => execSkpdz ac d s
  | .nioCpu ac => execNioCpu ac s
  | .inten ac => execInten ac s
  | .intds ac => execIntds ac s
  | .niopCpu ac => execNiopCpu ac s
  | .reads ac f => execReads ac f s
  | .doaCpu ac f => execDoaCpu ac f s
  | .inta ac f => execInta ac f s
  | .msko ac f => execMsko ac f s
  | .dicCpu ac f => execDicCpu ac f s
  | .iorst => execIorst s
  | .halt _ _ => .refused .tracedHalt
  | .skpbnCpu ac => execSkpbnCpu ac s
  | .skpbzCpu ac => execSkpbzCpu ac s
  | .skpdnCpu ac => execSkpdnCpu ac s
  | .skpdzCpu ac => execSkpdzCpu ac s
  | .slei k => execSlei k s
  | .sgri k => execSgri k s
  | .seqi k => execSeqi k s
  | .snei k => execSnei k s
  | .ldi k => execLdi k s
  | .adi k => execAdi k s
  | .sbi k => execSbi k s
  | .clrb ind mask => execClrb ind mask s
  | .setb ind mask => execSetb ind mask s
  | .togb ind mask => execTogb ind mask s
  | .sbz ind mask => execSbz ind mask s
  | .sbo ind mask => execSbo ind mask s
  | .sbzc ind mask => execSbzc ind mask s
  | .sboc ind mask => execSboc ind mask s
  | .sbzs ind mask => execSbzs ind mask s
  | .sbos ind mask => execSbos ind mask s
  | .sbzt ind mask => execSbzt ind mask s
  | .sbot ind mask => execSbot ind mask s
  | .setsp ac => execSetsp ac s
  | .redsp ac => execRedsp ac s
  | .push ac => execPush ac s
  | .pop ac => execPop ac s
  | .pushjump address => execPushjump address s
  | .rpushjump disp => execRpushjump disp s
  | .i2pushjump disp => execI2pushjump disp s
  | .i3pushjump disp => execI3pushjump disp s
  | .popjump => execPopjump s
  | .xload => execXload s
  | .xstore => execXstore s
  | .tablsearch => .next (searchRun false s)
  | .abinmultiply => execAbinmultiply s
  | .bindivide => execBindivide s
  | .movewords => .next (moveRun false moveWord s)
  | .rmovwords => .next (moveRun false rmoveWord s)
  | .eisUnassigned w => execEisUnassigned w s
  | .nybsl => .next (nybslRun false s)
  | .nybsr => .next (nybsrRun false s)
  | .decadd => execDecadd s
  | .decsub => execDecsub s
  | .convert => execConvert s
  | .vjsr subnum => execVjsr subnum s
  | .getbyte => execGetbyte s
  | .putbyte => execPutbyte s
  | .sgetbyte => execSgetbyte s
  | .sputbyte => execSputbyte s
  | .xgetbyte => execXgetbyte s
  | .xputbyte => execXputbyte s
  | .xsgetbyte => execXsgetbyte s
  | .xsputbyte => execXsputbyte s
  | .igetbyte disp => execIgetbyte disp s
  | .iputbyte disp => execIputbyte disp s
  | .xtranslate => execXtranslate s
  | .trace _ => .refused .tracedTrace

/-- The end of a TRACE: the second word takes the remote next-pc and the host program goes on after it (R325). DESIGN CHOICE
(log 40): after a remote NIOP or IORST this store reaches memory under the new MODE64K, which matters under `mask15` (R56). -/
def State.traceEnd (t : State) : State := { t.write t.xpc t.pc with pc := t.xpc + 1 }

/-- The machine as the remote instruction finds it: XPC is the address of the second word, pc the remote pc. -/
def State.traceStart (s : State) (address : Word) : State := { s with xpc := s.pc + 1, pc := address }

/-- The remote instruction, fetched at the remote pc. -/
def State.remoteInstr (s : State) (address : Word) : Instr :=
  decode s.cfg.enc s.eis (s.read address) (s.read (address + 1))

/-- TRACE (R325): `address` is the second word. A remote instruction that does not complete is marked as traced, and the
end follows when it does. -/
def execTrace (address : Word) (s : State) : Answer :=
  match remote (s.remoteInstr address) (s.traceStart address) with
  | .next t =>
    match t.hung with
    | some h => .next { t with hung := some { h with traced := true } }
    | none => .next t.traceEnd
  | .fault f => .fault f
  | .refused r => .refused r

end Sys2Proof.Machine
end

