-- ==== Sys2Proof/Machine/Dispatch.lean ====
section
/-! DEFINITION. The dispatch: one arm per instruction. -/

namespace Sys2Proof.Machine

def exec (i : Instr) (s : State) : Host.Outcome State Fault Refusal :=
  match i with
  | .jmp m => Sys2Proof.Machine.execJmp m s
  | .jsr m => Sys2Proof.Machine.execJsr m s
  | .isz m => Sys2Proof.Machine.execIsz m s
  | .dsz m => Sys2Proof.Machine.execDsz m s
  | .lda ac m => Sys2Proof.Machine.execLda ac m s
  | .sta ac m => Sys2Proof.Machine.execSta ac m s
  | .com f => Sys2Proof.Machine.execCom f s
  | .neg f => Sys2Proof.Machine.execNeg f s
  | .mov f => Sys2Proof.Machine.execMov f s
  | .inc f => Sys2Proof.Machine.execInc f s
  | .adc f => Sys2Proof.Machine.execAdc f s
  | .sub f => Sys2Proof.Machine.execSub f s
  | .add f => Sys2Proof.Machine.execAdd f s
  | .and_ f => Sys2Proof.Machine.execAnd f s
  | .nio ac f d => Sys2Proof.Machine.execNio ac f d s
  | .dia ac f d => Sys2Proof.Machine.execDia ac f d s
  | .doa ac f d => Sys2Proof.Machine.execDoa ac f d s
  | .dib ac f d => Sys2Proof.Machine.execDib ac f d s
  | .dob ac f d => Sys2Proof.Machine.execDob ac f d s
  | .dic ac f d => Sys2Proof.Machine.execDic ac f d s
  | .doc ac f d => Sys2Proof.Machine.execDoc ac f d s
  | .skpbn ac d => Sys2Proof.Machine.execSkpbn ac d s
  | .skpbz ac d => Sys2Proof.Machine.execSkpbz ac d s
  | .skpdn ac d => Sys2Proof.Machine.execSkpdn ac d s
  | .skpdz ac d => Sys2Proof.Machine.execSkpdz ac d s
  | .nioCpu ac => Sys2Proof.Machine.execNioCpu ac s
  | .inten ac => Sys2Proof.Machine.execInten ac s
  | .intds ac => Sys2Proof.Machine.execIntds ac s
  | .niopCpu ac => Sys2Proof.Machine.execNiopCpu ac s
  | .reads ac f => Sys2Proof.Machine.execReads ac f s
  | .doaCpu ac f => Sys2Proof.Machine.execDoaCpu ac f s
  | .inta ac f => Sys2Proof.Machine.execInta ac f s
  | .msko ac f => Sys2Proof.Machine.execMsko ac f s
  | .dicCpu ac f => Sys2Proof.Machine.execDicCpu ac f s
  | .iorst => Sys2Proof.Machine.execIorst s
  | .halt ac f => Sys2Proof.Machine.execHalt ac f s
  | .skpbnCpu ac => Sys2Proof.Machine.execSkpbnCpu ac s
  | .skpbzCpu ac => Sys2Proof.Machine.execSkpbzCpu ac s
  | .skpdnCpu ac => Sys2Proof.Machine.execSkpdnCpu ac s
  | .skpdzCpu ac => Sys2Proof.Machine.execSkpdzCpu ac s
  | .slei k => Sys2Proof.Machine.execSlei k s
  | .sgri k => Sys2Proof.Machine.execSgri k s
  | .seqi k => Sys2Proof.Machine.execSeqi k s
  | .snei k => Sys2Proof.Machine.execSnei k s
  | .ldi k => Sys2Proof.Machine.execLdi k s
  | .adi k => Sys2Proof.Machine.execAdi k s
  | .sbi k => Sys2Proof.Machine.execSbi k s
  | .clrb ind mask => Sys2Proof.Machine.execClrb ind mask s
  | .setb ind mask => Sys2Proof.Machine.execSetb ind mask s
  | .togb ind mask => Sys2Proof.Machine.execTogb ind mask s
  | .sbz ind mask => Sys2Proof.Machine.execSbz ind mask s
  | .sbo ind mask => Sys2Proof.Machine.execSbo ind mask s
  | .sbzc ind mask => Sys2Proof.Machine.execSbzc ind mask s
  | .sboc ind mask => Sys2Proof.Machine.execSboc ind mask s
  | .sbzs ind mask => Sys2Proof.Machine.execSbzs ind mask s
  | .sbos ind mask => Sys2Proof.Machine.execSbos ind mask s
  | .sbzt ind mask => Sys2Proof.Machine.execSbzt ind mask s
  | .sbot ind mask => Sys2Proof.Machine.execSbot ind mask s
  | .setsp ac => Sys2Proof.Machine.execSetsp ac s
  | .redsp ac => Sys2Proof.Machine.execRedsp ac s
  | .push ac => Sys2Proof.Machine.execPush ac s
  | .pop ac => Sys2Proof.Machine.execPop ac s
  | .pushjump address => Sys2Proof.Machine.execPushjump address s
  | .rpushjump disp => Sys2Proof.Machine.execRpushjump disp s
  | .i2pushjump disp => Sys2Proof.Machine.execI2pushjump disp s
  | .i3pushjump disp => Sys2Proof.Machine.execI3pushjump disp s
  | .popjump => Sys2Proof.Machine.execPopjump s
  | .xload => Sys2Proof.Machine.execXload s
  | .xstore => Sys2Proof.Machine.execXstore s
  | .tablsearch => Sys2Proof.Machine.execTablsearch s
  | .abinmultiply => Sys2Proof.Machine.execAbinmultiply s
  | .bindivide => Sys2Proof.Machine.execBindivide s
  | .movewords => Sys2Proof.Machine.execMovewords s
  | .rmovwords => Sys2Proof.Machine.execRmovwords s
  | .eisUnassigned w => Sys2Proof.Machine.execEisUnassigned w s
  | .nybsl => Sys2Proof.Machine.execNybsl s
  | .nybsr => Sys2Proof.Machine.execNybsr s
  | .decadd => Sys2Proof.Machine.execDecadd s
  | .decsub => Sys2Proof.Machine.execDecsub s
  | .convert => Sys2Proof.Machine.execConvert s
  | .vjsr subnum => Sys2Proof.Machine.execVjsr subnum s
  | .getbyte => Sys2Proof.Machine.execGetbyte s
  | .putbyte => Sys2Proof.Machine.execPutbyte s
  | .sgetbyte => Sys2Proof.Machine.execSgetbyte s
  | .sputbyte => Sys2Proof.Machine.execSputbyte s
  | .xgetbyte => Sys2Proof.Machine.execXgetbyte s
  | .xputbyte => Sys2Proof.Machine.execXputbyte s
  | .xsgetbyte => Sys2Proof.Machine.execXsgetbyte s
  | .xsputbyte => Sys2Proof.Machine.execXsputbyte s
  | .igetbyte disp => Sys2Proof.Machine.execIgetbyte disp s
  | .iputbyte disp => Sys2Proof.Machine.execIputbyte disp s
  | .xtranslate => Sys2Proof.Machine.execXtranslate s
  | .trace address => Sys2Proof.Machine.execTrace address s

end Sys2Proof.Machine
end

