-- ==== Sys2Proof/Machine/Boundary.lean ====
section
/-! DEFINITION. What happens at an instruction boundary (R343, R352): the fetch, the processor's turn, an instruction that
goes on, the operator's acts (R362 to R375), parity errors (R353), power (R391, R395). -/

namespace Sys2Proof.Machine

/-! ## Fetch and the processor's turn -/

/-- The next instruction word: the one fetched ahead, where memory no longer holds it (R68), or the word at pc (R67). -/
def State.nextWord (s : State) : Word := s.ahead.getD (s.read s.pc)

/-- The next instruction. -/
def State.nextInstr (s : State) : Instr := decode s.cfg.enc s.eis s.nextWord (s.read (s.pc + 1))

/-- One instruction is executed. A read that a parity error has hit delivers its free value to this instruction only (R353;
log 26). -/
def State.execute (s : State) : Answer :=
  let r := exec s.nextInstr { s with ahead := none }
  match s.misread with
  | none => r
  | some _ =>
    match r with
    | .next t => .next t.rereads
    | .fault f => .fault f
    | .refused e => .refused e

/-- What the DATA display shows after INST STEP (R368), computed from the state after the instruction; none where the
source gives no display. -/
def stepDisplay (i : Instr) (t : State) : Option Word :=
  match i with
  | .lda ac _ | .sta ac _ => some (t.ac ac)
  | .isz _ | .dsz _ | .jmp _ | .jsr _ => some (t.stored t.pc)
  | .com f | .neg f | .mov f | .inc f | .adc f | .sub f | .add f | .and_ f => some (t.ac f.acd)
  | .dia ac _ _ | .doa ac _ _ | .dib ac _ _ | .dob ac _ _ | .dic ac _ _ | .doc ac _ _ => some (t.ac ac)
  | .reads ac _ | .inta ac _ | .msko ac _ => some (t.ac ac)
  | .skpbn _ _ | .skpbz _ _ | .skpdn _ _ | .skpdz _ _ => some t.a0
  | .skpbnCpu _ | .skpbzCpu _ | .skpdnCpu _ | .skpdzCpu _ => some t.a0
  | _ => none

/-- The DATA display takes a value; a free one where none is stated (R368; log 32). -/
def State.showData (s : State) (v : Option Word) : State :=
  match v with
  | some w => { s with panels := { s.panels with ocuData := w } }
  | none => ({ s with panels := { s.panels with ocuData := s.freeWord } } : State).drawn 1

/-- The display after a stepped instruction that took more than one step of the model. -/
def Endless.display (e : Endless) (t : State) : Option Word :=
  match e with
  | .chain (.lda ac) _ | .chain (.sta ac) _ => some (t.ac ac)
  | .chain _ _ => some (t.stored t.pc)
  | .search => none

/-- The end of an instruction that went on: the end of the TRACE it was in, the stop after INST STEP, with a parity halt and a
CONT in between too (DESIGN CHOICE, log 42). -/
def Hung.finish (h : Hung) (t : State) : State :=
  let t1 := if h.traced then t.traceEnd else t
  if h.stepping then
    ({ t1 with run := false } : State).showData (if h.traced then none else h.what.display t1)
  else t1

/-- An instruction that goes on: one more level of its indirect chain (R113), or one more comparison (R324). DESIGN CHOICE
(logs 11, 18): under `per_iteration` an interrupt that an act makes due between two comparisons of a search that goes on is
taken after one more comparison, or after the search where that one ends it. -/
def Hung.resume (h : Hung) (s : State) : State :=
  match h.what with
  | .chain op ea =>
    match followChain 1 s ea with
    | .address e t => h.finish (op.perform e { t with hung := none })
    | .more ea' t => { t with hung := some { h with what := .chain op ea' } }
  | .search =>
    match searchLoop (!h.traced && !h.stepping) 1 s with
    | .found t => h.finish (({ t with hung := none } : State).advance 1 true)
    | .missed t => h.finish (({ t with hung := none } : State).advance 1 false)
    | .paused t => { t with hung := none }
    | .more t => t

/-- The processor's turn at a boundary (R343, R352): nothing while it is stopped (R354), an instruction that goes on, an
interrupt entry, or the next instruction. -/
def State.turnTaken (s : State) : Answer :=
  if s.run then
    match s.hung with
    | some h => .next (h.resume s).rereads
    | none => if s.interruptDue then .next s.interruptEntry.rereads else s.execute
  else .next s

/-- The processor's turn, after which the data channel may have its next cycle though power is failing (R349). -/
def State.processor (s : State) : Answer := s.proceeds.turnTaken

/-! ## The operator (R362 to R375) -/

/-- Is a panel's switch enabled? The Mini-panel with the key at ON (R362, R374); the OCU where it is installed and not
dead after a parity halt (R366). Power must be on (log 31). -/
def State.enabled (s : State) (p : Panel) : Bool :=
  s.panels.power == .on &&
    match p with
    | .mini => s.panels.key == .on
    | .ocu => s.cfg.ocuPresent && !s.panels.ocuLocked

/-- The DATA display is set. -/
def State.setData (s : State) (v : Word) : State := { s with panels := { s.panels with ocuData := v } }

/-- The operator sets the pc: what was fetched, and a read that a parity error has hit, belong to the instruction left. -/
def State.setPc (s : State) (a : Word) : State := { s with pc := a, ahead := none, misread := none }

/-- EXAM at an address: pc takes it, DATA shows the word there. The panel reaches all 65536 words (R369, R56). -/
def State.examine (s : State) (a : Word) : State := (s.setPc a).setData (memWord s.mem a)

/-- DEP at an address: pc takes it, DATA is stored there (R370). -/
def State.deposit (s : State) (a : Word) : State :=
  { s.setPc a with mem := setWord s.mem a s.panels.ocuData }

/-- STOP (R363): at this boundary, before interrupts are considered; it does not work on an instruction that goes on. The next
instruction has been fetched: INST STEP executes that word (R36; log 19). -/
def State.stop (s : State) : State := if s.run && s.hung.isNone then { s with run := false } else s

/-- CONT (R364): the next instruction is fetched afresh, an instruction that went on when a parity error stopped it goes on.
The read that the error has hit is still unspecified (D24). The OCU's switches stay dead until RESET (R362). DESIGN CHOICE
(log 42): a stepped instruction that goes on is still one, and the processor stops at its end. -/
def State.cont (s : State) : State := if s.run then s else { s with run := true, parErr := false, ahead := none }

/-- OCU RESET (R366). -/
def State.ocuReset (s : State) : State :=
  { s.ioReset with ion := false, ionPending := false, run := false, hung := none
                   panels := { s.panels with ocuLocked := false } }

/-- INST STEP (R368, D33): one instruction, no interrupt in its place, then a stop. The instruction is the word that was
fetched, where memory no longer holds it (R36, R68; log 19). DESIGN CHOICE (log 41): with power failing it counts as the
processor's turn, so that the data channel may have its next cycle (R63, R349). -/
def State.instStep (s : State) : Answer :=
  match s.proceeds.execute with
  | .next t =>
    match t.hung with
    | some h => .next { t with run := true, hung := some { h with stepping := true } }
    | none => .next (({ t with run := false } : State).showData (stepDisplay s.nextInstr t))
  | .fault f => .fault f
  | .refused r => .refused r

/-- A word of the MANIP PROM (R393). -/
def promAt (c : Config) (i : Nat) : Word := c.manipProm.getD i (Config.promWord i)

/-- The PROM is copied into the top 1000 (octal) words of memory (R393): words `i` to 777. -/
def loadProm (c : Config) : Nat → Memory → Memory
  | 0, m => m
  | n + 1, m => setWord (loadProm c n m) (0o177000#16 + BitVec.ofNat 16 n) (promAt c n)

/-- APL up to the start of the loaded program (R365, R393): I/O Reset, ION and the lamp off, the PROM in memory, the old
pc at 177000. -/
def State.aplLoad (s : State) : State :=
  let r := s.ioReset
  { r with ion := false, ionPending := false, run := true, parErr := false, hung := none, ahead := none, misread := none
           mem := setWord (loadProm s.cfg 512 s.mem) 0o177000#16 s.pc }

/-- The automatic load from device XX with the switches at 2XX (R394, D36): an NIOS to the device, the idle jump at 377; the
accumulators and the carry are unspecified. DESIGN CHOICE (log 28): XX is the low six switches whatever they are, though R394
gives 01 to 76 only; the 100 switch is ignored, and at XX = 77 the pulse goes to no device and does not act on ION. -/
def State.aplBoot (s : State) : State :=
  let d : DevCode := s.panels.miniSwitches.extractLsb' 0 6
  let s1 := s.aplLoad
  let s2 : State :=
    { s1 with a0 := Config.freeWord s1.draws, a1 := Config.freeWord (s1.draws + 1)
              a2 := Config.freeWord (s1.draws + 2), a3 := Config.freeWord (s1.draws + 3)
              c := Config.freeBit s1.draws
              mem := setWord s1.mem 0o377#16 0o000377#16
              pc := 0o377#16 }
  (s2.drawn 4).devNio .s d

/-- APL (R365, R375, R393, R394). DESIGN CHOICE (log 29): with Self-Test selected and the switches at 2XX, Self-Test is loaded;
no rule says which of the two wins. -/
def State.apl (s : State) : Answer :=
  if s.run && s.hung.isNone then .refused .aplWhileRunning
  else if s.panels.selfTest then .fault .selfTestLoaded
  else if s.panels.miniSwitches.getLsbD 7 then .next s.aplBoot
  else .next { s.aplLoad with pc := s.cfg.manipEntry.getD Config.promEntry }

/-- Power goes (R374, R391, R395): the processor stops. The batteries keep memory only when power was on and the key is
not at OFF. -/
def State.powerDown (s : State) (p : Power) : State :=
  { s with run := false, hung := none, ahead := none, misread := none, dchServed := false
           panels :=
             { s.panels with
               power := if s.panels.power == .off then .off else p
               memKept := if s.panels.power == .on then s.cfg.batteryBackup && p == .lost else s.panels.memKept && p == .lost } }

/-- The key switch is turned (R374). -/
def State.turnKey (s : State) (k : Key) : State :=
  let s1 : State := { s with panels := { s.panels with key := k } }
  match k with
  | .on | .auto => s1
  | .standby => s1.powerDown .lost
  | .off => s1.powerDown .off

/-- An OCU control that is disabled in RUN mode (R362). -/
def State.whenStopped (s : State) (f : State → State) : Answer :=
  .next (if s.enabled .ocu && !s.run then f s else s)

/-- The operator's acts; an act that is not enabled has no effect (R362; log 31). -/
def State.operate (s : State) (a : PanelAct) : Answer :=
  match a with
  | .stop p => .next (if s.enabled p then s.stop else s)
  | .cont .mini => .next (if s.enabled .mini then s.cont else s)
  | .cont .ocu => .next (if s.panels.power == .on && s.cfg.ocuPresent then s.cont else s)
  | .apl p => if s.enabled p then s.apl else .next s
  | .reset => .next (if s.panels.power == .on && s.cfg.ocuPresent then s.ocuReset else s)
  | .start => s.whenStopped fun s => { s.setPc s.panels.ocuData with run := true }
  | .instStep => if s.enabled .ocu && !s.run then s.instStep else .next s
  | .exam => s.whenStopped fun s => s.examine s.panels.ocuData
  | .examNext => s.whenStopped fun s => s.examine (s.pc + 1)
  | .examPrev => s.whenStopped fun s => s.examine (s.pc - 1)
  | .dep stale => s.whenStopped fun s => { s.deposit s.pc with ahead := if stale then s.fetchedAhead else none }
  | .depNext => s.whenStopped fun s => s.deposit (s.pc + 1)
  | .examAc n => s.whenStopped fun s => s.setData (s.ac n)
  | .depAc n => s.whenStopped fun s => s.setAc n s.panels.ocuData
  | .digit n => .next (if s.enabled .ocu then s.setData (s.panels.ocuData.extractLsb' 0 13 ++ n) else s)
  | .clearData => .next (if s.enabled .ocu then s.setData 0 else s)
  | .set64k => s.whenStopped fun s => { s with mode64k := true }
  | .key k => .next (s.turnKey k)
  | .miniSwitches v => .next { s with panels := { s.panels with miniSwitches := v } }
  | .selfTest b => .next { s with panels := { s.panels with selfTest := b } }

/-! ## Parity errors and power -/

/-- The parity halt (R353): the processor stops with the lamp lit, the OCU's switches other than RESET and CONT are dead. An
instruction that was going on is not given up (log 26). -/
def State.parityHalt (s : State) : State :=
  { s with run := false, parErr := true, panels := { s.panels with ocuLocked := true } }

/-- The parity halt at the processor's read of the word at `a`: if it goes on, the read delivers a free value (D24). Memory is
not changed. -/
def State.parityAt (s : State) (a : Word) : State :=
  ({ s.parityHalt with misread := some (s.phys a, s.freeWord) } : State).drawn 1

/-- The address that a panel act examines (R369). -/
def State.examined (s : State) (a : PanelAct) : Option Word :=
  match a with
  | .exam => some s.panels.ocuData
  | .examNext => some (s.pc + 1)
  | .examPrev => some (s.pc - 1)
  | _ => none

/-- EXAM with a parity error: the DATA display takes a free value. -/
def State.parityExam (s : State) (a : PanelAct) : State :=
  match s.examined a with
  | some x => ((s.setPc x).setData s.freeWord).parityHalt.drawn 1
  | none => s

/-- A data channel output cycle with a parity error: the device is given a free value. -/
def State.parityChannel (s : State) (d : DevCode) (a : Word) : State :=
  match s.admitted (s.waitingCycles [.output d a]) with
  | [] => s
  | _ :: _ =>
    (({ s.parityHalt with dchServed := s.pwrFail } : State).record (.dchOutput d a s.freeWord)).drawn 1

/-- A parity error, where the option is present, at a read that takes place (R353; log 26). -/
def State.parityError (s : State) (h : ParityHit) : State :=
  if s.cfg.parityOption && s.panels.power == .on then
    match h with
    | .fetch => if s.run && s.hung.isNone then { s.parityAt s.pc with ahead := none } else s
    | .data a => if s.run then s.parityAt a else s
    | .stepped a => if s.enabled .ocu && !s.run then s.parityAt a else s
    | .examined k => if s.enabled .ocu && !s.run then s.parityExam k else s
    | .channel d a => s.parityChannel d a
  else s

/-- Power turn-on (R391, R392, R395): registers from the environment, the flags and the devices reset; after a power
failure with battery backup the pc is 0 and, with the key at AUTO, the processor runs. Without battery backup the return of
power is a cold start and the pc comes from the environment (R42, R391), though R395's pseudocode has 0 there: DESIGN CHOICE
(log 27). -/
def State.powerOn (s : State) (v : PowerUp) : State :=
  let restart := s.cfg.batteryBackup && s.panels.power == .lost
  { s.ioReset with
    a0 := v.a0, a1 := v.a1, a2 := v.a2, a3 := v.a3, c := v.c, sp := v.sp, xpc := v.xpc
    pc := if restart then 0 else v.pc
    ion := false, ionPending := false, pwrFail := false, parErr := false
    run := restart && s.panels.key == .auto
    hung := none, ahead := none, misread := none, dchServed := false
    mem := if restart && s.panels.memKept then s.mem else memoryOf v.mem
    panels := { s.panels with ocuData := v.ocuData, ocuLocked := false, power := .on, memKept := false } }

/-- Power returns: only when it is off, and with the key at ON or AUTO (R374). -/
def State.powerReturns (s : State) (v : PowerUp) : State :=
  if s.panels.power != .on && (s.panels.key == .on || s.panels.key == .auto) then s.powerOn v else s

/-! ## One step -/

/-- One entry of the list of coming acts takes place. -/
def State.take (s : State) (i : Input) : Answer :=
  match i with
  | .proceed => s.processor
  | .env e => .next (if s.panels.power == .on then s.applyEnv e else s)
  | .between es => .next (if s.panels.power == .on then es.foldl State.applyEnv s else s)
  | .panel a => s.operate a
  | .parity h => .next (s.parityError h)
  | .powerLost => .next (if s.panels.power == .on then s.powerDown .lost else s)
  | .batteriesDischarged =>
    .next (if s.panels.power == .on then s else { s with panels := { s.panels with memKept := false } })
  | .powerRestored v => .next (s.powerReturns v)

/-- One step: the next coming act, or the processor's turn when none is listed (log 16). -/
def State.turn (s : State) : Answer :=
  match s.inputs with
  | [] => s.processor
  | i :: rest => ({ s with inputs := rest } : State).take i

/-! ## Where a program's first instruction is placed -/

/-- The words of an instruction stored where the fetch reads them, and what the fetch needs: the processor running with no
instruction going on, nothing fetched ahead, no act coming before it, no interrupt taken in its place, and EIS as the
first word needs it (log 39). -/
def State.placed (s : State) (first second : Word) : State :=
  let s1 := s.write s.pc first
  let s2 := s1.write (s.pc + 1) second
  { s2 with run := true, hung := none, ahead := none, misread := none, inputs := [], ionPending := s.ionPending || s.ion
            eis := nopSkipWord first }

end Sys2Proof.Machine
end

