-- ==== Sys2Proof/Machine/Step.lean ====
section
/-! DEFINITION. The step. -/

namespace Sys2Proof.Machine

/-- One step of the machine (R352; log 16). -/
def step (s : State) : Host.Outcome State Fault Refusal := s.turn

/-- The state with the instruction whose bits are `w` (numbered as spec/opcode_table.json numbers them: bits 15..0 the
first word, bits 31..16 the second) stored where the next step fetches (log 39). -/
def State.withFetchWord (s : State) (nbits w : Nat) : State :=
  s.placed (BitVec.ofNat 16 (w % 2 ^ nbits)) (BitVec.ofNat 16 (w % 2 ^ nbits / 2 ^ 16))

end Sys2Proof.Machine
end

