-- ==== Sys2Proof/Certificates/Slice0/Obligations.lean ====
section
/-! DEFINITION. The statements for the provers. Helper predicates first; each statement is `Obligations.<Name>`. In every
frame `t` is the state after, `s` the state before. -/

namespace Sys2Proof.Claims

open Sys2Proof.Machine

/-! ## Frames -/

/-- Every accumulator is unchanged. -/
def SameAcs (s t : State) : Prop := ∀ k, t.ac k = s.ac k

/-- Every accumulator other than `n` is unchanged. -/
def AcsBut (n : Ac) (s t : State) : Prop := ∀ k, k ≠ n → t.ac k = s.ac k

/-- ION, MODE64K, EIS, PWRFAIL, RUN and PARERR are unchanged. -/
def SameFlags (s t : State) : Prop :=
  t.ion = s.ion ∧ t.mode64k = s.mode64k ∧ t.eis = s.eis ∧ t.pwrFail = s.pwrFail ∧ t.run = s.run ∧ t.parErr = s.parErr

/-- What lies outside the processor's registers, the devices and the I/O history apart, is unchanged; a pending parity
error may be gone, since a word that is written reads as it was written. -/
def SameSetting (s t : State) : Prop :=
  t.ahead = s.ahead ∧ t.hung = s.hung ∧ t.panels = s.panels ∧ t.cfg = s.cfg ∧ t.inputs = s.inputs ∧
    t.dchServed = s.dchServed ∧ (t.misread = s.misread ∨ t.misread = none)

/-- The devices and the I/O history are unchanged. -/
def SameDevices (s t : State) : Prop := t.devices = s.devices ∧ t.ioTrace = s.ioTrace

/-- An instruction completes and changes nothing but accumulators, carry, pc and memory; ION_PENDING is cleared (R345). -/
def Plain (s t : State) : Prop :=
  SameFlags s t ∧ SameSetting s t ∧ SameDevices s t ∧ t.sp = s.sp ∧ t.xpc = s.xpc ∧ t.draws = s.draws ∧
    t.ionPending = false

/-- As `Plain`, but free values may have been taken. -/
def PlainFree (s t : State) : Prop :=
  SameFlags s t ∧ SameSetting s t ∧ SameDevices s t ∧ t.sp = s.sp ∧ t.xpc = s.xpc ∧ t.ionPending = false

/-- As `Plain`, but SP may have changed. -/
def PlainStack (s t : State) : Prop :=
  SameFlags s t ∧ SameSetting s t ∧ SameDevices s t ∧ t.xpc = s.xpc ∧ t.draws = s.draws ∧ t.ionPending = false

/-- Every byte of memory reads as before. -/
def SameMemory (s t : State) : Prop := ∀ b, memByte t.mem b = memByte s.mem b

/-- Every byte outside the word at address `a` reads as before. -/
def MemoryBut (a : Word) (s t : State) : Prop :=
  ∀ b, b ≠ 2 * (s.phys a).toNat → b ≠ 2 * (s.phys a).toNat + 1 → memByte t.mem b = memByte s.mem b

/-- All 16 bits of every address count (64K mode, or MODE32K_DIRECT_HIGH = full16, R56). -/
def FullAddresses (s : State) : Prop := s.mode64k = true ∨ s.cfg.highAddress = .full16

/-- No act is listed to fall between two iterations of a long instruction (R326), and the processor's turn has come (R349). -/
def NoGaps (s : State) : Prop := (∀ es rest, s.inputs ≠ .between es :: rest) ∧ s.dchServed = false

/-! ## Memory reference -/

/-- `e` is the effective address of a memory reference instruction and `s1` the state after its indirect sequence (R110,
R111), which has ended. -/
def Reaches (s : State) (m : MemRef) (e : Word) (s1 : State) : Prop :=
  if m.ind then followChain chainLevels s (s.firstAddress m) = .address e s1 else e = s.firstAddress m ∧ s1 = s

/-! ## Arithmetic and logic, in numbers -/

/-- The carry base (R141). -/
def carryBase (cy : CarryBase) (c : Bool) : Nat :=
  match cy with
  | .current => c.toNat
  | .zero => 0
  | .one => 1
  | .complement => 1 - c.toNat

/-- The shifter on a 17-bit number whose weight 65536 is the carry (R151). -/
def shift17 (sh : Shift) (v : Nat) : Nat :=
  match sh with
  | .none => v
  | .left => v * 2 % 131072 + v / 65536
  | .right => v / 2 + v % 2 * 65536
  | .swap => v / 65536 * 65536 + v % 256 * 256 + v / 256 % 256

/-- The skip test on a 17-bit number (R153). -/
def skips17 (sk : SkipTest) (v : Nat) : Prop :=
  match sk with
  | .never => False
  | .skp => True
  | .szc => v < 65536
  | .snc => 65536 ≤ v
  | .szr => v % 65536 = 0
  | .snr => v % 65536 ≠ 0
  | .sez => v < 65536 ∨ v % 65536 = 0
  | .sbn => 65536 ≤ v ∧ v % 65536 ≠ 0

/-- The 17-bit output of the shifter when the ALU's operation gives the number `total`, its carry out the weight 65536
(R140 to R142). -/
def aluNumber (f : AluFields) (s : State) (total : Nat) : Nat :=
  shift17 f.sh ((carryBase f.cy s.c + total / 65536) % 2 * 65536 + total % 65536)

/-- The instruction `i` with fields `f` runs the pipeline of R140 on `total`. -/
def AluDoes (i : Instr) (f : AluFields) (s : State) (total : Nat) : Prop :=
  ∃ t, exec i s = .next t ∧
    (f.nl = false → (t.ac f.acd).toNat = aluNumber f s total % 65536 ∧ t.c = decide (65536 ≤ aluNumber f s total) ∧
      AcsBut f.acd s t) ∧
    (f.nl = true → SameAcs s t ∧ t.c = s.c) ∧
    (skips17 f.sk (aluNumber f s total) → t.pc = s.pc + 2) ∧
    (¬ skips17 f.sk (aluNumber f s total) → t.pc = s.pc + 1) ∧
    SameMemory s t ∧ Plain s t

/-- Is it an arithmetic or logical instruction (R103)? -/
def isAlu (i : Instr) : Bool :=
  match i with
  | .com _ | .neg _ | .mov _ | .inc _ | .adc _ | .sub _ | .add _ | .and_ _ => true
  | _ => false

/-! ## Input and output -/

/-- The word an installed device gives on a channel (R170, R188). -/
def givenWord (x : Device) (b : Buf) : Nat :=
  let v := match b with
    | .bufA => x.inA
    | .bufB => x.inB
    | .bufC => x.inC
  if x.byteWide then v.toNat % 256 else v.toNat

/-- What every I/O instruction of device codes 00 to 76 leaves alone. -/
def IoFrame (s t : State) : Prop :=
  SameFlags s t ∧ SameSetting s t ∧ t.sp = s.sp ∧ t.xpc = s.xpc ∧ t.draws = s.draws ∧ t.ionPending = false ∧
    t.c = s.c ∧ SameMemory s t

/-- An input transfer from channel `b` into `ac`, then the pulse (R170). -/
def InputDoes (i : Instr) (ac : Ac) (f : Ctrl) (d : DevCode) (b : Buf) (s : State) : Prop :=
  ∃ t, exec i s = .next t ∧
    (∀ x, s.device? d = some x → (t.ac ac).toNat = givenWord x b) ∧
    (s.device? d = none → t.ac ac = 0) ∧
    AcsBut ac s t ∧ t.pc = s.pc + 1 ∧
    t.devices = s.devices.map (fun x => if x.code = d then x.control f else x) ∧
    t.ioTrace = .instr d (.input b (t.ac ac)) f :: s.ioTrace ∧
    IoFrame s t

/-- The device after a word has arrived in an output buffer (R170, R187). -/
def tookWord (x : Device) (b : Buf) (v : Word) : Device :=
  let v' : Word := if x.byteWide then BitVec.ofNat 16 (v.toNat % 256) else v
  match b with
  | .bufA => { x with outA := v' }
  | .bufB => { x with outB := v' }
  | .bufC => { x with outC := v' }

/-- An output transfer of `ac` to channel `b`, then the pulse (R170). -/
def OutputDoes (i : Instr) (ac : Ac) (f : Ctrl) (d : DevCode) (b : Buf) (s : State) : Prop :=
  ∃ t, exec i s = .next t ∧
    t.devices = s.devices.map (fun x => if x.code = d then (tookWord x b (s.ac ac)).control f else x) ∧
    SameAcs s t ∧ t.pc = s.pc + 1 ∧
    t.ioTrace = .instr d (.output b (s.ac ac)) f :: s.ioTrace ∧
    IoFrame s t

/-- A skip instruction of device code `d`, its CTRL field `f`: it skips when `test` holds and moves nothing. -/
def IoSkips (i : Instr) (d : DevCode) (f : Ctrl) (test : Prop) (s : State) : Prop :=
  ∃ t, exec i s = .next t ∧ (test → t.pc = s.pc + 2) ∧ (¬ test → t.pc = s.pc + 1) ∧
    SameAcs s t ∧ t.devices = s.devices ∧ t.ioTrace = .instr d .skip f :: s.ioTrace ∧ IoFrame s t

/-- An instruction whose only effect is to skip when `test` holds. -/
def SkipsWhen (i : Instr) (test : Prop) (s : State) : Prop :=
  ∃ t, exec i s = .next t ∧ (test → t.pc = s.pc + 2) ∧ (¬ test → t.pc = s.pc + 1) ∧
    SameAcs s t ∧ t.c = s.c ∧ SameMemory s t ∧ Plain s t

/-- The control part of a code-77 transfer (R211): `m` and `e` are MODE64K and EIS after the OPCODE part, `a0` is A0 then. -/
def ControlPart (f : Ctrl) (m e : Bool) (a0 : Word) (s t : State) : Prop :=
  match f with
  | .none => t.ion = s.ion ∧ t.ionPending = false ∧ t.mode64k = m ∧ t.eis = e
  | .s => t.ion = true ∧ t.ionPending = true ∧ t.mode64k = m ∧ t.eis = e
  | .c => t.ion = false ∧ t.ionPending = false ∧ t.mode64k = m ∧ t.eis = e
  | .p => t.ion = s.ion ∧ t.ionPending = false ∧ t.mode64k = decide (a0.toNat % 2 = 1) ∧
      t.eis = if s.cfg.eisJumpers then decide (32768 ≤ a0.toNat) else e

/-- What every code-77 transfer leaves alone, and its record: `act` is its OPCODE part, `f` its control part (R377). -/
def CpuFrame (act : IoAction) (f : Ctrl) (s t : State) : Prop :=
  t.pwrFail = s.pwrFail ∧ t.parErr = s.parErr ∧ SameSetting s t ∧ t.sp = s.sp ∧ t.xpc = s.xpc ∧ t.c = s.c ∧
    t.ioTrace = .instr cpuCode act f :: s.ioTrace ∧ SameMemory s t ∧ t.pc = s.pc + 1

/-- A device is idle: Busy, Done, Interrupt Disable and Interrupt Request are 0 (R392). -/
def Idle (x : Device) : Prop := x.busy = false ∧ x.done = false ∧ x.intDisable = false ∧ x.intReq = false

/-- The same devices, in the same places, all idle (R392). -/
def AllIdle (s t : State) : Prop :=
  t.devices.map (fun x => (x.code, x.maskBit, x.byteWide, x.dch, x.unsolicited, x.onStart, x.onClear, x.onPulse)) =
      s.devices.map (fun x => (x.code, x.maskBit, x.byteWide, x.dch, x.unsolicited, x.onStart, x.onClear, x.onPulse)) ∧
    ∀ x ∈ t.devices, Idle x

/-! ## Extended instructions -/

/-- A bit instruction (R239): `act` is the action on a bit of the operand and the same bit of the mask, `skip` the test on
operand and mask. -/
def BitDoes (i : Instr) (ind : Bool) (mask : Word) (act : Bool → Bool → Bool) (skip : Word → Word → Prop) (s : State) :
    Prop :=
  ∃ opnd, opnd = (if ind then s.read (s.a1 + s.a2) else s.a0) ∧
    ∃ t, exec i s = .next t ∧
      (∀ k, k < 16 → t.a0.getLsbD k = act (opnd.getLsbD k) (mask.getLsbD k)) ∧
      (ind = true → t.read (s.a1 + s.a2) = t.a0 ∧ MemoryBut (s.a1 + s.a2) s t) ∧
      (ind = false → SameMemory s t) ∧
      AcsBut .a0 s t ∧ t.c = s.c ∧
      (skip opnd mask → t.pc = s.pc + 3) ∧ (¬ skip opnd mask → t.pc = s.pc + 2) ∧
      Plain s t

/-- No test (CLRB, SETB, TOGB). -/
def neverSkips (_opnd _mask : Word) : Prop := False

/-- The test of SBZ: every bit of the operand that the mask selects is 0. -/
def zerosTest (opnd mask : Word) : Prop := ∀ k, k < 16 → mask.getLsbD k = true → opnd.getLsbD k = false

/-- The test of SBO: some bit of the operand that the mask selects is 1. -/
def onesTest (opnd mask : Word) : Prop := ∃ k, k < 16 ∧ mask.getLsbD k = true ∧ opnd.getLsbD k = true

/-- The state after a push, before the limit test: SP is one lower and the word is stored there. -/
def afterPush (s : State) (v : Word) : State := ({ s with sp := s.sp - 1 } : State).write (s.sp - 1) v

/-- The stack fault's marks on the state (R261): the saved pc at (SB), the new pc from (SB)+1; `u` is the state in which
the limit test was made. -/
def FaultTaken (u t : State) : Prop :=
  t.pc = t.read (u.read 0o45#16 + 1) ∧ MemoryBut (u.read 0o45#16) u t ∧ SameAcs u t ∧ t.c = u.c ∧ t.sp = u.sp ∧
    SameFlags u t ∧ SameSetting u t ∧ SameDevices u t ∧ t.xpc = u.xpc ∧ t.ionPending = false

/-- The byte at byte address `b` relative to word address `base` (R300), as a number. -/
def byteAt (s : State) (base b : Word) : Nat :=
  if b.toNat % 2 = 0 then (s.read (base + b >>> 1)).toNat / 256 else (s.read (base + b >>> 1)).toNat % 256

/-- The place in memory of that byte (R51). -/
def bytePlace (s : State) (base b : Word) : Nat := 2 * (s.phys (base + b >>> 1)).toNat + b.toNat % 2

/-- A byte instruction that loads the byte into A0 and leaves `n` one higher where it steps. -/
def GetDoes (i : Instr) (base b : Word) (steps : Option Ac) (s : State) : Prop :=
  ∃ t, exec i s = .next t ∧ t.a0.toNat = byteAt s base b ∧
    (∀ k, k ≠ .a0 → t.ac k = if steps = some k then s.ac k + 1 else s.ac k) ∧
    t.c = s.c ∧ t.pc = s.pc + 1 ∧ SameMemory s t ∧ Plain s t

/-- A byte instruction that stores A0's low byte, every other byte of memory left alone. -/
def PutDoes (i : Instr) (base b : Word) (steps : Option Ac) (s : State) : Prop :=
  ∃ t, exec i s = .next t ∧ (memByte t.mem (bytePlace s base b)).toNat = s.a0.toNat % 256 ∧
    (∀ p, p ≠ bytePlace s base b → memByte t.mem p = memByte s.mem p) ∧
    (∀ k, t.ac k = if steps = some k then s.ac k + 1 else s.ac k) ∧
    t.c = s.c ∧ t.pc = s.pc + 1 ∧ Plain s t

/-- The instructions that complete in one step on every operand, memory references with I = 0 among them. -/
def oneStep (i : Instr) : Bool :=
  match i with
  | .jmp m | .jsr m | .isz m | .dsz m | .lda _ m | .sta _ m => !m.ind
  | .nybsl | .nybsr | .movewords | .rmovwords | .tablsearch => false
  | .doaCpu _ _ | .halt _ _ | .eisUnassigned _ | .trace _ => false
  | _ => true

/-- TRACE of `r` at the remote address `a` completes as R325 says: `u` is the state in which `r` leaves the machine. -/
def TraceDone (a : Word) (r : Instr) (s : State) : Prop :=
  ∃ u t, exec r { s with xpc := s.pc + 1, pc := a } = .next u ∧ exec (.trace a) s = .next t ∧
    t.read (s.pc + 1) = u.pc ∧ t.pc = s.pc + 2 ∧ t.xpc = s.pc + 1 ∧ SameAcs u t ∧ t.c = u.c ∧
    MemoryBut (s.pc + 1) u t ∧ SameFlags u t ∧ SameSetting u t ∧ SameDevices u t ∧ t.sp = u.sp ∧
    t.ionPending = u.ionPending ∧ t.draws = u.draws

/-- An S pulse to the processor (R202, R211). -/
def setsIon (i : Instr) : Bool :=
  match i with
  | .inten _ => true
  | .reads _ f | .inta _ f | .msko _ f | .dicCpu _ f | .halt _ f => f == .s
  | _ => false

/-! ## The machine -/

/-- No interrupt is taken at this boundary (R343, R345, R346). -/
def NoInterrupt (s : State) : Prop :=
  s.ion = false ∨ s.ionPending = true ∨
    (s.pwrFail = false ∧ ∀ d ∈ s.devices, d.intReq = true → d.intDisable = true)

/-- The switches of the OCU other than CONT and RESET (R353, R362). -/
def deadUnderLock (a : PanelAct) : Bool :=
  match a with
  | .stop .ocu | .apl .ocu | .start | .instStep | .exam | .examNext | .examPrev | .dep _ | .depNext => true
  | .examAc _ | .depAc _ | .digit _ | .clearData | .set64k => true
  | .stop .mini | .apl .mini | .cont _ | .reset | .key _ | .miniSwitches _ | .selfTest _ => false

/-- The invariant of the machine: memory in canonical form; EIS only with the jumpers (R30); ION_PENDING only with ION
(R28); an instruction goes on only while the processor runs or after a parity halt; the processor runs only with power
on. -/
def MachineInv (s : State) : Prop :=
  Memory.wf s.mem ∧ (s.eis = true → s.cfg.eisJumpers = true) ∧ (s.ionPending = true → s.ion = true) ∧
    (s.hung.isSome = true → s.run = true ∨ s.panels.ocuLocked = true) ∧ (s.run = true → s.panels.power = .on)

end Sys2Proof.Claims

open Sys2Proof Sys2Proof.Machine Sys2Proof.Claims

/-! ## Decoding -/

/-- Some words of spec/95_test_vectors.md Part 3, bit by bit. -/
def Obligations.DecodeOfWrittenWords : Prop :=
  decode EncTable.default false 0b0001101000100101#16 0 = .dsz ⟨false, .baseA2, 0o45#8⟩ ∧
  decode EncTable.default false 0b0010110000010000#16 0 = .lda .a1 ⟨true, .pageZero, 0o20#8⟩ ∧
  decode EncTable.default true 0b1000111001111010#16 0 = .add ⟨.a0, .a1, .left, .complement, true, .szc⟩ ∧
  decode EncTable.default false 0b1000000000001001#16 0 = .com ⟨.a0, .a0, .none, .current, true, .skp⟩ ∧
  decode EncTable.default true 0b1000000000001001#16 0 = .slei 0 ∧
  decode EncTable.default false 0b0111000110001000#16 0 = .dia .a2 .c 0o10#6 ∧
  decode EncTable.default false 0b0110010110111111#16 0 = .iorst ∧
  decode EncTable.default false 0b0110111000111111#16 0 = .halt .a1 .none ∧
  decode EncTable.default true 0b1101011000111001#16 0o100000#16 = .sbzs true 0o100000#16 ∧
  decode EncTable.default true 0b1110110001111001#16 0 = .push .a1 ∧
  decode EncTable.default true 0b1100010010111001#16 0o2000#16 = .pushjump 0o2000#16 ∧
  decode EncTable.default true 0b1110100010111001#16 0 = .tablsearch ∧
  decode EncTable.default true 0b1100000000111001#16 0 = .eisUnassigned 0o140071#16

/-- Decoding the words of a well-formed instruction gives it back, whatever follows it. -/
def Obligations.DecodeOfEncode : Prop :=
  ∀ (enc : EncTable) (eis : Bool) (i : Instr) (rest : List Word),
    enc.wf = true → WellFormed enc eis i = true → decodeWords enc eis (encode enc i ++ rest) = .ok (i, rest)

/-- Every word is an instruction that exists, and its encoding is that word: with EIS = 0 (R81) and with EIS = 1, under a
table that gives each parametric operation one first word. -/
def Obligations.EncodeOfDecode : Prop :=
  ∀ (enc : EncTable) (eis : Bool) (w second : Word), enc.wf = true → (enc.map (·.2)).Nodup →
    WellFormed enc eis (decode enc eis w second) = true ∧
      encode enc (decode enc eis w second) = w :: (if (decode enc eis w second).words = 2 then [second] else [])

/-- R154: with EIS = 0 a word of the NOP-skip space loads nothing and always skips; with EIS = 1 it is no arithmetic or
logical instruction; the EIS flag changes the decoding of no other word. -/
def Obligations.NopSkipWithoutEis : Prop :=
  (∀ (enc : EncTable) (w second : Word) (s : State), w.getLsbD 15 = true → w.extractLsb' 0 4 = 0b1001#4 →
    (∃ t, exec (decode enc false w second) s = .next t ∧ t.pc = s.pc + 2 ∧ SameAcs s t ∧ t.c = s.c ∧ SameMemory s t ∧
      Plain s t) ∧
    isAlu (decode enc true w second) = false) ∧
  (∀ (enc : EncTable) (w second : Word), ¬ (w.getLsbD 15 = true ∧ w.extractLsb' 0 4 = 0b1001#4) →
    decode enc true w second = decode enc false w second)

/-! ## Memory reference -/

/-- R110: the first address. -/
def Obligations.FirstAddress : Prop :=
  ∀ (s : State) (m : MemRef),
    (m.x = .pageZero → (s.firstAddress m).toNat = m.d.toNat) ∧
    (m.x = .relative → ((s.firstAddress m).toNat : Int) = ((s.pc.toNat : Int) + m.d.toInt) % 65536) ∧
    (m.x = .baseA2 → ((s.firstAddress m).toNat : Int) = ((s.a2.toNat : Int) + m.d.toInt) % 65536) ∧
    (m.x = .baseA3 → ((s.firstAddress m).toNat : Int) = ((s.a3.toNat : Int) + m.d.toInt) % 65536)

/-- In 64K mode an indirect sequence has one level and uses all 16 bits; an auto-index location is stepped and the stepped
word is the address (R111, R112). -/
def Obligations.IndirectIn64kMode : Prop :=
  ∀ (s : State) (a : Word), s.mode64k = true →
    ∃ v t, followChain chainLevels s a = .address v t ∧
      if 0o20 ≤ a.toNat ∧ a.toNat ≤ 0o27 then v = s.read a + 1 ∧ t.read a = v ∧ MemoryBut a s t
      else if 0o30 ≤ a.toNat ∧ a.toNat ≤ 0o37 then v = s.read a - 1 ∧ t.read a = v ∧ MemoryBut a s t
      else v = s.read a ∧ SameMemory s t

/-- One level of the indirect sequence in 32K mode, at every address `a` (R111, R112): `v` is the address word, stepped and
written back at an auto-index location, and `t` the state after the level. Top bit 0 ends the sequence at `v`; top bit 1
goes on at its low 15 bits (the spec's decision D28). Then three whole sequences: a page-zero word with its top bit set names
a second address word, which ends the sequence; at an auto-index location the top bit after stepping decides: 077777 stepped
up goes on at location 0, 100000 stepped down ends the sequence at 077777. -/
def Obligations.IndirectIn32kMode : Prop :=
  (∀ (n : Nat) (s t : State) (a v : Word), s.mode64k = false →
    (if 0o20 ≤ (s.phys a).toNat ∧ (s.phys a).toNat ≤ 0o27 then v = s.read a + 1 ∧ t = s.write a v
      else if 0o30 ≤ (s.phys a).toNat ∧ (s.phys a).toNat ≤ 0o37 then v = s.read a - 1 ∧ t = s.write a v
      else v = s.read a ∧ t = s) →
    (v.toNat < 32768 → followChain (n + 1) s a = .address v t) ∧
    (32768 ≤ v.toNat → followChain (n + 1) s a = followChain n t (BitVec.ofNat 16 (v.toNat - 32768)))) ∧
  (∀ (s : State) (ac : Ac) (d : BitVec 8) (b e : Word), s.mode64k = false →
    (d.toNat < 0o20 ∨ 0o37 < d.toNat) → (b.toNat < 0o20 ∨ 0o37 < b.toNat) → b.toNat < 32768 → e.toNat < 32768 →
    s.read (d.setWidth 16) = b + 0o100000#16 → s.read b = e →
    ∃ t, exec (.lda ac ⟨true, .pageZero, d⟩) s = .next t ∧ t.ac ac = s.read e ∧ AcsBut ac s t ∧ t.c = s.c ∧
      t.pc = s.pc + 1 ∧ SameMemory s t ∧ Plain s t) ∧
  (∀ (s : State) (d : BitVec 8), s.mode64k = false → 0o20 ≤ d.toNat → d.toNat ≤ 0o27 →
    s.read (d.setWidth 16) = 0o77777#16 → (s.read 0).toNat < 32768 →
    ∃ t, exec (.jmp ⟨true, .pageZero, d⟩) s = .next t ∧ t.pc = s.read 0 ∧ t.read (d.setWidth 16) = 0o100000#16 ∧
      SameAcs s t ∧ t.c = s.c ∧ MemoryBut (d.setWidth 16) s t ∧ Plain s t) ∧
  (∀ (s : State) (d : BitVec 8), s.mode64k = false → 0o30 ≤ d.toNat → d.toNat ≤ 0o37 →
    s.read (d.setWidth 16) = 0o100000#16 →
    ∃ t, exec (.jmp ⟨true, .pageZero, d⟩) s = .next t ∧ t.pc = 0o77777#16 ∧ t.read (d.setWidth 16) = 0o77777#16 ∧
      SameAcs s t ∧ t.c = s.c ∧ MemoryBut (d.setWidth 16) s t ∧ Plain s t)

/-- An indirect sequence, ended or not, writes no byte outside locations 20 to 37 (R58, R112) and changes nothing else (a
pending parity error at a location it writes apart). -/
def Obligations.ChainWritesAutoIndexCellsOnly : Prop :=
  ∀ (n : Nat) (s t : State) (a e : Word), (followChain n s a = .address e t ∨ followChain n s a = .more e t) →
    (∀ b, b < 2 * 0o20 ∨ 2 * 0o37 + 1 < b → memByte t.mem b = memByte s.mem b) ∧
      (t.misread = s.misread ∨ t.misread = none) ∧ { t with mem := s.mem, misread := s.misread } = s

/-- A page-zero location that names itself with its top bit set: in 32K mode the instruction never completes, no interrupt
is taken and nothing changes (R113); with no act listed and no parity error pending the machine stays where it is for ever. -/
def Obligations.EndlessChainIsStuck : Prop :=
  ∀ (s : State) (d : BitVec 8), s.mode64k = false → s.run = true → s.inputs = [] → s.misread = none → s.dchServed = false →
    (d.toNat < 0o20 ∨ 0o37 < d.toNat) → s.read (d.setWidth 16) = d.setWidth 16 + 0o100000#16 →
    ∃ t, exec (.jmp ⟨true, .pageZero, d⟩) s = .next t ∧ t.hung.isSome = true ∧ { t with hung := s.hung } = s ∧
      ∀ n, Host.Core.run Sys2Proof.core n t = .next t

/-- R114, R115: JMP and JSR whose indirect sequence ends. -/
def Obligations.Jumps : Prop :=
  ∀ (s s1 : State) (m : MemRef) (e : Word), Reaches s m e s1 →
    (∃ t, exec (.jmp m) s = .next t ∧ t.pc = e ∧ SameAcs s t ∧ t.c = s.c ∧ SameMemory s1 t ∧ Plain s t) ∧
    (∃ t, exec (.jsr m) s = .next t ∧ t.pc = e ∧ t.a3 = s.pc + 1 ∧ AcsBut .a3 s t ∧ t.c = s.c ∧ SameMemory s1 t ∧
      Plain s t)

/-- R116, R117: ISZ and DSZ whose indirect sequence ends. -/
def Obligations.ModifyMemory : Prop :=
  ∀ (s s1 : State) (m : MemRef) (e : Word), Reaches s m e s1 →
    (∃ t, exec (.isz m) s = .next t ∧ (t.read e).toNat = ((s1.read e).toNat + 1) % 65536 ∧ MemoryBut e s1 t ∧
      t.pc = (if s1.read e = 0o177777#16 then s.pc + 2 else s.pc + 1) ∧ SameAcs s t ∧ t.c = s.c ∧ Plain s t) ∧
    (∃ t, exec (.dsz m) s = .next t ∧ (t.read e).toNat = ((s1.read e).toNat + 65535) % 65536 ∧ MemoryBut e s1 t ∧
      t.pc = (if s1.read e = 1 then s.pc + 2 else s.pc + 1) ∧ SameAcs s t ∧ t.c = s.c ∧ Plain s t)

/-- R118, R119: LDA and STA whose indirect sequence ends. -/
def Obligations.MoveData : Prop :=
  ∀ (s s1 : State) (ac : Ac) (m : MemRef) (e : Word), Reaches s m e s1 →
    (∃ t, exec (.lda ac m) s = .next t ∧ t.ac ac = s1.read e ∧ AcsBut ac s t ∧ t.c = s.c ∧ t.pc = s.pc + 1 ∧
      SameMemory s1 t ∧ Plain s t) ∧
    (∃ t, exec (.sta ac m) s = .next t ∧ t.read e = s.ac ac ∧ MemoryBut e s1 t ∧ SameAcs s t ∧ t.c = s.c ∧
      t.pc = s.pc + 1 ∧ Plain s t)

/-! ## Arithmetic and logic -/

/-- R143, R145, R150 with R140, R141, R151 to R153: COM, MOV and AND, each with its opcode. -/
def Obligations.LogicalFunctions : Prop :=
  ∀ (f : AluFields) (s : State) (enc : EncTable) (second : Word),
    decode enc false (encodeAlu 0b000#3 f) second = .com f ∧
    decode enc false (encodeAlu 0b010#3 f) second = .mov f ∧
    decode enc false (encodeAlu 0b111#3 f) second = .and_ f ∧
    AluDoes (.com f) f s (65535 - (s.ac f.acs).toNat) ∧
    AluDoes (.mov f) f s (s.ac f.acs).toNat ∧
    AluDoes (.and_ f) f s ((s.ac f.acd).toNat &&& (s.ac f.acs).toNat)

/-- R144, R146 to R149 with R140 to R142, R151 to R153: NEG, INC, ADC, SUB and ADD, each with its opcode. -/
def Obligations.ArithmeticFunctions : Prop :=
  ∀ (f : AluFields) (s : State) (enc : EncTable) (second : Word),
    decode enc false (encodeAlu 0b001#3 f) second = .neg f ∧
    decode enc false (encodeAlu 0b011#3 f) second = .inc f ∧
    decode enc false (encodeAlu 0b100#3 f) second = .adc f ∧
    decode enc false (encodeAlu 0b101#3 f) second = .sub f ∧
    decode enc false (encodeAlu 0b110#3 f) second = .add f ∧
    AluDoes (.neg f) f s (65536 - (s.ac f.acs).toNat) ∧
    AluDoes (.inc f) f s ((s.ac f.acs).toNat + 1) ∧
    AluDoes (.adc f) f s ((s.ac f.acd).toNat + (65535 - (s.ac f.acs).toNat)) ∧
    AluDoes (.sub f) f s ((s.ac f.acd).toNat + (65536 - (s.ac f.acs).toNat)) ∧
    AluDoes (.add f) f s ((s.ac f.acd).toNat + (s.ac f.acs).toNat)

/-! ## Regular input and output -/

/-- R173, R175, R177: DIA, DIB, DIC, from an installed device and from a code with no device (0, the spec's decision D8). -/
def Obligations.RegularInput : Prop :=
  ∀ (ac : Ac) (f : Ctrl) (d : DevCode) (s : State),
    InputDoes (.dia ac f d) ac f d .bufA s ∧ InputDoes (.dib ac f d) ac f d .bufB s ∧
      InputDoes (.dic ac f d) ac f d .bufC s

/-- R174, R176, R178: DOA, DOB, DOC to an installed device; that they complete without effect on a code with no device is the
spec's decision D8 of R171 (log 23). -/
def Obligations.RegularOutput : Prop :=
  ∀ (ac : Ac) (f : Ctrl) (d : DevCode) (s : State),
    OutputDoes (.doa ac f d) ac f d .bufA s ∧ OutputDoes (.dob ac f d) ac f d .bufB s ∧
      OutputDoes (.doc ac f d) ac f d .bufC s

/-- R172 with R179 to R181: NIO sends the pulse only and is recorded; on a device of the default model S makes it busy, C idles it and P
does nothing; the other devices are unchanged. -/
def Obligations.NioPulses : Prop :=
  ∀ (ac : Ac) (f : Ctrl) (d : DevCode) (s : State),
    ∃ t, exec (.nio ac f d) s = .next t ∧ SameAcs s t ∧ t.pc = s.pc + 1 ∧ IoFrame s t ∧
      t.ioTrace = .instr d .nio f :: s.ioTrace ∧ (∀ k, k ≠ d → t.device? k = s.device? k) ∧
      ∀ x, s.device? d = some x → x.onStart = .start → x.onClear = .clear → x.onPulse = .nothing →
        t.device? d = some (match f with
          | .s => { x with busy := true, done := false, intReq := false }
          | .c => { x with busy := false, done := false, intReq := false }
          | _ => x)

/-- R182 to R185: the device skips; an absent device reads as not busy and not done (D8). -/
def Obligations.DeviceSkips : Prop :=
  ∀ (ac : Ac) (d : DevCode) (s : State),
    IoSkips (.skpbn ac d) d .none (∃ x, s.device? d = some x ∧ x.busy = true) s ∧
    IoSkips (.skpbz ac d) d .s (¬ ∃ x, s.device? d = some x ∧ x.busy = true) s ∧
    IoSkips (.skpdn ac d) d .c (∃ x, s.device? d = some x ∧ x.done = true) s ∧
    IoSkips (.skpdz ac d) d .p (¬ ∃ x, s.device? d = some x ∧ x.done = true) s

/-! ## The processor as device 77 -/

/-- R201 to R204: NIO CPU, INTEN, INTDS, NIOP CPU. -/
def Obligations.ProcessorControl : Prop :=
  ∀ (ac : Ac) (s : State),
    ∀ p ∈ [(Instr.nioCpu ac, Ctrl.none), (.inten ac, .s), (.intds ac, .c), (.niopCpu ac, .p)],
      ∃ t, exec p.1 s = .next t ∧ ControlPart p.2 s.mode64k s.eis s.a0 s t ∧ SameAcs s t ∧ t.run = s.run ∧
        t.devices = s.devices ∧ t.draws = s.draws ∧ CpuFrame .nio p.2 s t

/-- R205, R211: READS reads the DATA display or, with no OCU, the mini-switches; then the control part, which takes A0 as
it then stands. -/
def Obligations.ReadSwitches : Prop :=
  ∀ (ac : Ac) (f : Ctrl) (s : State),
    ∃ t, exec (.reads ac f) s = .next t ∧
      (s.cfg.ocuPresent = true → t.ac ac = s.panels.ocuData) ∧
      (s.cfg.ocuPresent = false → (t.ac ac).toNat = s.panels.miniSwitches.toNat) ∧
      AcsBut ac s t ∧ ControlPart f s.mode64k s.eis t.a0 s t ∧ t.run = s.run ∧ t.devices = s.devices ∧
      t.draws = s.draws ∧ CpuFrame (.input .bufA (t.ac ac)) f s t

/-- R207: INTA reads the code of the requesting device closest to the processor, 0 when none requests (the spec's decision
D7); then the control part, which takes A0 as INTA has left it (the spec's decision D26, log 36). -/
def Obligations.InterruptAcknowledge : Prop :=
  ∀ (ac : Ac) (f : Ctrl) (s : State),
    ∃ t, exec (.inta ac f) s = .next t ∧
      (∀ closer d farther, s.devices = closer ++ d :: farther → d.intReq = true → d.intDisable = false →
        (∀ x ∈ closer, x.intReq = true → x.intDisable = true) → (t.ac ac).toNat = d.code.toNat) ∧
      ((∀ x ∈ s.devices, x.intReq = true → x.intDisable = true) → t.ac ac = 0) ∧
      AcsBut ac s t ∧ ControlPart f s.mode64k s.eis t.a0 s t ∧ t.run = s.run ∧ t.devices = s.devices ∧
      t.draws = s.draws ∧ CpuFrame (.input .bufB (t.ac ac)) f s t

/-- R208: MSKO loads every device's Interrupt Disable flag from its own bit (manual bit m is the bit of weight 2^(15-m)); a
device without a bit keeps its flag (D31); nothing else of a device changes. -/
def Obligations.MaskOut : Prop :=
  ∀ (ac : Ac) (f : Ctrl) (s : State),
    ∃ t, exec (.msko ac f) s = .next t ∧
      t.devices = s.devices.map (fun x => { x with intDisable :=
        match x.maskBit with
        | some m => decide ((s.ac ac).toNat / 2 ^ (15 - m.val) % 2 = 1)
        | none => x.intDisable }) ∧
      SameAcs s t ∧ ControlPart f s.mode64k s.eis s.a0 s t ∧ t.run = s.run ∧ t.draws = s.draws ∧
      CpuFrame (.output .bufB (s.ac ac)) f s t

/-- R209, R392: DIC CPU and IORST idle every device and clear MODE64K and EIS; then the control part (IORST: C). -/
def Obligations.IoResetInstructions : Prop :=
  ∀ (ac : Ac) (f : Ctrl) (s : State),
    (∃ t, exec (.dicCpu ac f) s = .next t ∧ AllIdle s t ∧ ControlPart f false false s.a0 s t ∧ SameAcs s t ∧
      t.run = s.run ∧ CpuFrame .ioReset f s t) ∧
    (∃ t, exec .iorst s = .next t ∧ AllIdle s t ∧ ControlPart .c false false s.a0 s t ∧ SameAcs s t ∧
      t.run = s.run ∧ CpuFrame .ioReset .c s t)

/-- R210: HALT stops the processor with the pc at the word after it; then the control part. -/
def Obligations.HaltStops : Prop :=
  ∀ (ac : Ac) (f : Ctrl) (s : State),
    ∃ t, exec (.halt ac f) s = .next t ∧ t.run = false ∧ ControlPart f s.mode64k s.eis s.a0 s t ∧ SameAcs s t ∧
      t.devices = s.devices ∧ t.draws = s.draws ∧ CpuFrame .halt f s t

/-- R212 to R215: the skips on ION and PWRFAIL, each with its words. -/
def Obligations.ProcessorSkips : Prop :=
  ∀ (ac : Ac) (s : State) (enc : EncTable) (eis : Bool) (second : Word),
    decode enc eis (encodeIo ac 0b111#3 .none 0o77#6) second = .skpbnCpu ac ∧
    decode enc eis (encodeIo ac 0b111#3 .s 0o77#6) second = .skpbzCpu ac ∧
    decode enc eis (encodeIo ac 0b111#3 .c 0o77#6) second = .skpdnCpu ac ∧
    decode enc eis (encodeIo ac 0b111#3 .p 0o77#6) second = .skpdzCpu ac ∧
    IoSkips (.skpbnCpu ac) cpuCode .none (s.ion = true) s ∧ IoSkips (.skpbzCpu ac) cpuCode .s (s.ion = false) s ∧
    IoSkips (.skpdnCpu ac) cpuCode .c (s.pwrFail = true) s ∧ IoSkips (.skpdzCpu ac) cpuCode .p (s.pwrFail = false) s

/-- R206 and R94: DOA CPU and a word of the NOP-skip space that is no documented extended instruction are refused. -/
def Obligations.UndefinedInstructionsRefused : Prop :=
  (∀ (second : Word) (enc : EncTable) (eis : Bool) (s : State) (ac : Ac) (f : Ctrl),
    exec (decode enc eis (encodeIo ac 0b010#3 f 0o77#6) second) s = .refused .doaCpuNotDefined) ∧
  (∀ (w second : Word) (enc : EncTable) (s : State), unassignedWord enc w = true →
    exec (decode enc true w second) s = .refused .eisUnassigned)

/-! ## Extended instructions: immediate and bit -/

/-- R232 to R235: the immediate compares, unsigned over all 16 bits of A0, each with its word. -/
def Obligations.ImmediateCompares : Prop :=
  ∀ (k : BitVec 8) (s : State) (enc : EncTable) (second : Word),
    decode enc true (encodeEi false k 0b00#2) second = .slei k ∧
    decode enc true (encodeEi false k 0b01#2) second = .sgri k ∧
    decode enc true (encodeEi false k 0b10#2) second = .seqi k ∧
    decode enc true (encodeEi false k 0b11#2) second = .snei k ∧
    SkipsWhen (.slei k) (s.a0.toNat ≤ k.toNat) s ∧ SkipsWhen (.sgri k) (k.toNat < s.a0.toNat) s ∧
    SkipsWhen (.seqi k) (s.a0.toNat = k.toNat) s ∧ SkipsWhen (.snei k) (s.a0.toNat ≠ k.toNat) s

/-- R236 to R238: LDI, ADI and SBI, each with its word. -/
def Obligations.ImmediateArithmetic : Prop :=
  ∀ (k : BitVec 8) (s : State) (enc : EncTable) (second : Word),
    decode enc true (encodeEi true k 0b00#2) second = .ldi k ∧
    decode enc true (encodeEi true k 0b01#2) second = .adi k ∧
    decode enc true (encodeEi true k 0b10#2) second = .sbi k ∧
    (∃ t, exec (.ldi k) s = .next t ∧ t.a0.toNat = k.toNat ∧ t.c = s.c ∧ AcsBut .a0 s t ∧ t.pc = s.pc + 1 ∧
      SameMemory s t ∧ Plain s t) ∧
    (∃ t, exec (.adi k) s = .next t ∧ t.a0.toNat = (s.a0.toNat + k.toNat) % 65536 ∧
      t.c = (s.c ^^ decide (65536 ≤ s.a0.toNat + k.toNat)) ∧ AcsBut .a0 s t ∧ t.pc = s.pc + 1 ∧
      SameMemory s t ∧ Plain s t) ∧
    (∃ t, exec (.sbi k) s = .next t ∧ t.a0.toNat = (s.a0.toNat + 65536 - k.toNat) % 65536 ∧
      t.c = (s.c ^^ decide (k.toNat ≤ s.a0.toNat)) ∧ AcsBut .a0 s t ∧ t.pc = s.pc + 1 ∧
      SameMemory s t ∧ Plain s t)

/-- R239 to R250: the eleven bit instructions, on A0 and with `@` on the word at (A1)+(A2). -/
def Obligations.BitInstructions : Prop :=
  ∀ (ind : Bool) (mask : Word) (s : State),
    BitDoes (.clrb ind mask) ind mask (fun o m => o && !m) neverSkips s ∧
    BitDoes (.setb ind mask) ind mask (fun o m => o || m) neverSkips s ∧
    BitDoes (.togb ind mask) ind mask (fun o m => o ^^ m) neverSkips s ∧
    BitDoes (.sbz ind mask) ind mask (fun o _ => o) zerosTest s ∧
    BitDoes (.sbo ind mask) ind mask (fun o _ => o) onesTest s ∧
    BitDoes (.sbzc ind mask) ind mask (fun o m => o && !m) zerosTest s ∧
    BitDoes (.sboc ind mask) ind mask (fun o m => o && !m) onesTest s ∧
    BitDoes (.sbzs ind mask) ind mask (fun o m => o || m) zerosTest s ∧
    BitDoes (.sbos ind mask) ind mask (fun o m => o || m) onesTest s ∧
    BitDoes (.sbzt ind mask) ind mask (fun o m => o ^^ m) zerosTest s ∧
    BitDoes (.sbot ind mask) ind mask (fun o m => o ^^ m) onesTest s

/-! ## Extended instructions: stack -/

/-- R262, R263: SETSP and REDSP, each with its word. -/
def Obligations.StackPointerAccess : Prop :=
  ∀ (ac : Ac) (s : State) (enc : EncTable) (second : Word),
    decode enc true (encodeEs false ac 0b100#3) second = .setsp ac ∧
    decode enc true (encodeEs false ac 0b000#3) second = .redsp ac ∧
    (∃ t, exec (.setsp ac) s = .next t ∧ t.sp = s.ac ac ∧ SameAcs s t ∧ t.c = s.c ∧ t.pc = s.pc + 1 ∧
      SameMemory s t ∧ PlainStack s t) ∧
    (∃ t, exec (.redsp ac) s = .next t ∧ t.ac ac = s.sp ∧ t.sp = s.sp ∧ AcsBut ac s t ∧ t.c = s.c ∧
      t.pc = s.pc + 1 ∧ SameMemory s t ∧ PlainStack s t)

/-- R264, R265, R270 within the limits: PUSH, POP and POPJUMP. -/
def Obligations.StackWithinLimits : Prop :=
  (∀ (ac : Ac) (s : State),
    ((afterPush s (s.ac ac)).read 0o47#16).toNat ≤ (s.sp - 1).toNat →
    ∃ t, exec (.push ac) s = .next t ∧ t.sp = s.sp - 1 ∧ t.read (s.sp - 1) = s.ac ac ∧ MemoryBut (s.sp - 1) s t ∧
      SameAcs s t ∧ t.c = s.c ∧ t.pc = s.pc + 1 ∧ PlainStack s t) ∧
  (∀ (ac : Ac) (s : State), (s.sp + 1).toNat ≤ (s.read 0o46#16).toNat →
    ∃ t, exec (.pop ac) s = .next t ∧ t.ac ac = s.read s.sp ∧ t.sp = s.sp + 1 ∧ AcsBut ac s t ∧ t.c = s.c ∧
      t.pc = s.pc + 1 ∧ SameMemory s t ∧ PlainStack s t) ∧
  (∀ (s : State), (s.sp + 1).toNat ≤ (s.read 0o46#16).toNat →
    ∃ t, exec .popjump s = .next t ∧ t.pc = s.read s.sp ∧ t.sp = s.sp + 1 ∧ SameAcs s t ∧ t.c = s.c ∧
      SameMemory s t ∧ PlainStack s t)

/-- R261, R264, R265, R270, R341: a push that leaves SP below (SL) and a pop that leaves it above (FP) are complete, then
the fault saves the address of the following instruction at (SB) and jumps through (SB)+1. -/
def Obligations.StackFaults : Prop :=
  (∀ (ac : Ac) (s : State),
    (s.sp - 1).toNat < ((afterPush s (s.ac ac)).read 0o47#16).toNat →
    ∃ t, exec (.push ac) s = .next t ∧ t.sp = s.sp - 1 ∧
      t.read ((afterPush s (s.ac ac)).read 0o45#16) = s.pc + 1 ∧ FaultTaken (afterPush s (s.ac ac)) t ∧
      t.draws = s.draws) ∧
  (∀ (ac : Ac) (s : State), (s.read 0o46#16).toNat < (s.sp + 1).toNat →
    ∃ t, exec (.pop ac) s = .next t ∧ t.ac ac = s.read s.sp ∧ t.sp = s.sp + 1 ∧
      t.read (s.read 0o45#16) = s.pc + 1 ∧
      FaultTaken ({ s.setAc ac (s.read s.sp) with sp := s.sp + 1 } : State) t ∧ t.draws = s.draws) ∧
  (∀ (s : State), (s.read 0o46#16).toNat < (s.sp + 1).toNat →
    ∃ t, exec .popjump s = .next t ∧ t.sp = s.sp + 1 ∧ t.read (s.read 0o45#16) = s.pc + 1 ∧
      FaultTaken ({ s with sp := s.sp + 1 } : State) t ∧ t.draws = s.draws)

/-- R266 to R269: the PUSHJUMP family pushes the address after its two words and jumps; on overflow, by the unsigned
comparison of SP with (SL) that is the spec's decision D13 (log 36), the push is done and the fault is taken, and nothing is
said of the pc it saves (D14). -/
def Obligations.PushJumps : Prop :=
  ∀ (a : Word) (s : State),
    ∀ p ∈ [(Instr.pushjump a, a), (.rpushjump a, s.pc + a), (.i2pushjump a, s.a2 + a), (.i3pushjump a, s.a3 + a)],
      (((afterPush s (s.pc + 2)).read 0o47#16).toNat ≤ (s.sp - 1).toNat →
        ∃ t, exec p.1 s = .next t ∧ t.pc = p.2 ∧ t.sp = s.sp - 1 ∧ t.read (s.sp - 1) = s.pc + 2 ∧
          MemoryBut (s.sp - 1) s t ∧ SameAcs s t ∧ t.c = s.c ∧ PlainStack s t) ∧
      ((s.sp - 1).toNat < ((afterPush s (s.pc + 2)).read 0o47#16).toNat →
        ∃ t, exec p.1 s = .next t ∧ t.sp = s.sp - 1 ∧ FaultTaken (afterPush s (s.pc + 2)) t)

/-! ## Extended instructions: nybbles, decimal, conversion -/

/-- R281: NYBSL word by word, where no act falls between its iterations; nothing is said of the carry. -/
def Obligations.NybbleShiftLeft : Prop :=
  ∀ (s : State) (n : Nat) (w : Nat → Word), NoGaps s → FullAddresses s → n = s.a0.toNat →
    (∀ i, w i = s.read (s.a2 + BitVec.ofNat 16 i)) →
    ∃ t, exec .nybsl s = .next t ∧
      (∀ i, i ≤ n → (t.read (s.a2 + BitVec.ofNat 16 i)).toNat =
        (w i).toNat % 4096 * 16 + (if i = n then s.a1.toNat % 16 else (w (i + 1)).toNat / 4096)) ∧
      (∀ b, (∀ i, i ≤ n → b / 2 ≠ (s.a2 + BitVec.ofNat 16 i).toNat) → memByte t.mem b = memByte s.mem b) ∧
      t.a1.toNat = (w 0).toNat / 4096 ∧ t.a0.toNat = (t.read s.a2).toNat / 4096 * 4096 ∧ t.a2 = s.a2 ∧
      t.a3 = s.a3 ∧ t.pc = s.pc + 1 ∧ PlainFree s t

/-- R282: NYBSR word by word, where no act falls between its iterations; nothing is said of A1. -/
def Obligations.NybbleShiftRight : Prop :=
  ∀ (s : State) (n : Nat) (w : Nat → Word), NoGaps s → FullAddresses s → n = s.a0.toNat →
    (∀ i, w i = s.read (s.a2 + BitVec.ofNat 16 i)) →
    ∃ t, exec .nybsr s = .next t ∧
      (∀ i, i ≤ n → (t.read (s.a2 + BitVec.ofNat 16 i)).toNat =
        (if i = 0 then s.a1.toNat % 16 else (w (i - 1)).toNat % 16) * 4096 + (w i).toNat / 16) ∧
      (∀ b, (∀ i, i ≤ n → b / 2 ≠ (s.a2 + BitVec.ofNat 16 i).toNat) → memByte t.mem b = memByte s.mem b) ∧
      t.c = decide (5 ≤ (w n).toNat % 16) ∧ t.a0 = 0o177777#16 ∧ t.a2 = s.a2 + s.a0 + 1 ∧ t.a3 = s.a3 ∧
      t.pc = s.pc + 1 ∧ PlainFree s t

/-- R283, R285: DECADD and DECSUB of four-digit decimal numbers `x` in A0 and `y` in A1. -/
def Obligations.DecimalArithmetic : Prop :=
  ∀ (s : State) (x y : Nat), x < 10000 → y < 10000 → s.a0 = toBcd x → s.a1 = toBcd y →
    (∃ t, exec .decadd s = .next t ∧ t.a0 = toBcd ((x + y + s.c.toNat) % 10000) ∧
      t.c = decide (10000 ≤ x + y + s.c.toNat) ∧ AcsBut .a0 s t ∧ t.pc = s.pc + 1 ∧ SameMemory s t ∧ Plain s t) ∧
    (∃ t, exec .decsub s = .next t ∧ t.a0 = toBcd ((x + 10000 - y - (1 - s.c.toNat)) % 10000) ∧
      t.c = decide (y + (1 - s.c.toNat) ≤ x) ∧ AcsBut .a0 s t ∧ t.pc = s.pc + 1 ∧ SameMemory s t ∧ Plain s t)

/-- R284 (log 14): DECADD and DECSUB of an operand with a nybble of ten or more run; nothing is said of A0 and C, the rest
is as for digits. -/
def Obligations.InvalidDigitsRun : Prop :=
  ∀ (s : State), (∃ k, k < 4 ∧ (9 < s.a0.toNat / 16 ^ k % 16 ∨ 9 < s.a1.toNat / 16 ^ k % 16)) →
    ∀ i ∈ [Instr.decadd, .decsub],
      ∃ t, exec i s = .next t ∧ AcsBut .a0 s t ∧ t.pc = s.pc + 1 ∧ SameMemory s t ∧ PlainFree s t

/-- R286: CONVERT; after an overflow nothing is said of A1 and A2. Where A0 has a nybble of ten or more it completes and
nothing is said of A1, A2 and C (the spec's decision D17, log 15). -/
def Obligations.ConvertStep : Prop :=
  ∀ (s : State), ∃ t, exec .convert s = .next t ∧ t.a0 = s.a0 ∧ t.a3 = s.a3 ∧ t.pc = s.pc + 1 ∧ SameMemory s t ∧
    PlainFree s t ∧
    ((∀ k, k < 4 → s.a0.toNat / 16 ^ k % 16 ≤ 9) →
      if (s.a1.toNat * 65536 + s.a2.toNat) * 10 + s.a0.toNat < 2 ^ 32 then
        t.a1.toNat * 65536 + t.a2.toNat = (s.a1.toNat * 65536 + s.a2.toNat) * 10 + s.a0.toNat ∧ t.c = false
      else t.c = true)

/-- R287 to R289: VJSR, XLOAD and XSTORE, the last two with their words. -/
def Obligations.VectoredAndBased : Prop :=
  (∀ (enc : EncTable) (second : Word), decode enc true 0o154271#16 second = .xload ∧
    decode enc true 0o156271#16 second = .xstore) ∧
  (∀ (k : BitVec 5) (s : State) (v : Word), v = s.read 1 →
    ∃ t, exec (.vjsr k) s = .next t ∧ t.pc = s.read (BitVec.ofInt 16 ((v.toNat : Int) - k.toNat - 1)) ∧
      t.a3 = s.pc + 1 ∧ AcsBut .a3 s t ∧ t.c = s.c ∧ SameMemory s t ∧ Plain s t) ∧
  (∀ (s : State),
    ∃ t, exec .xload s = .next t ∧ t.a0 = s.read (s.read 0o40#16 + s.a2) ∧ AcsBut .a0 s t ∧ t.c = s.c ∧
      t.pc = s.pc + 1 ∧ SameMemory s t ∧ Plain s t) ∧
  (∀ (s : State),
    ∃ t, exec .xstore s = .next t ∧ t.read (s.read 0o41#16 + s.a2) = s.a0 ∧
      MemoryBut (s.read 0o41#16 + s.a2) s t ∧ SameAcs s t ∧ t.c = s.c ∧ t.pc = s.pc + 1 ∧ Plain s t)

/-! ## Extended instructions: bytes -/

/-- R302, R304, R306, R308: the byte loads. -/
def Obligations.GetBytes : Prop :=
  ∀ (s : State),
    GetDoes .getbyte 0 s.a1 none s ∧ GetDoes .sgetbyte 0 s.a2 (some .a2) s ∧
    GetDoes .xgetbyte (s.read 0o40#16) s.a1 none s ∧ GetDoes .xsgetbyte (s.read 0o40#16) s.a2 (some .a2) s

/-- R303, R305, R307, R309: the byte stores, with no parity error pending. -/
def Obligations.PutBytes : Prop :=
  ∀ (s : State), s.misread = none →
    PutDoes .putbyte 0 s.a1 none s ∧ PutDoes .sputbyte 0 s.a1 (some .a1) s ∧
    PutDoes .xputbyte (s.read 0o41#16) s.a1 none s ∧ PutDoes .xsputbyte (s.read 0o41#16) s.a1 (some .a1) s

/-- R310, R311: IGETBYTE and IPUTBYTE at or above the limit in A1, and below it: the pointer cell is stepped first, then
the byte at the stepped address is fetched or stored; with no parity error pending. -/
def Obligations.LimitedBytes : Prop :=
  ∀ (d : BitVec 4) (s u : State) (p b : Word), s.misread = none → p = s.a2 + d.setWidth 16 → b = s.read p → u = s.write p (b + 1) →
    (s.a1.toNat ≤ b.toNat → ∀ i ∈ [Instr.igetbyte d, .iputbyte d],
      ∃ t, exec i s = .next t ∧ t.pc = s.pc + 1 ∧ SameAcs s t ∧ t.c = s.c ∧ SameMemory s t ∧ Plain s t) ∧
    (b.toNat < s.a1.toNat →
      (∃ t, exec (.igetbyte d) s = .next t ∧ t.pc = s.pc + 2 ∧ t.a0.toNat = byteAt u 0 (b + 1) ∧ AcsBut .a0 s t ∧
        t.c = s.c ∧ t.read p = b + 1 ∧ MemoryBut p s t ∧ Plain s t) ∧
      (∃ t, exec (.iputbyte d) s = .next t ∧ t.pc = s.pc + 2 ∧
        (memByte t.mem (bytePlace s 0 (b + 1))).toNat = s.a0.toNat % 256 ∧
        (∀ q, q ≠ bytePlace s 0 (b + 1) → memByte t.mem q = memByte u.mem q) ∧ u.read p = b + 1 ∧
        MemoryBut p s u ∧ SameAcs s t ∧ t.c = s.c ∧ Plain s t))

/-- R312: XTRANSLATE, under each reading of XTRANSLATE_TABLE_BASE. -/
def Obligations.TranslateByte : Prop :=
  ∀ (s : State) (c t0 base : Word), c.toNat = byteAt s (s.read 0o40#16) s.a1 →
    (s.cfg.tableBase = .atPc → base = s.pc) → (s.cfg.tableBase = .afterPc → base = s.pc + 1) →
    t0 = s.read (base + c) →
    ∃ t, exec .xtranslate s = .next t ∧ t.a1 = s.a1 + 1 ∧ t.a2 = s.a2 ∧ t.a3 = s.a3 ∧ t.c = s.c ∧ SameMemory s t ∧
      Plain s t ∧
      if 0o377 < t0.toNat then t.pc = t0 ∧ t.a0 = c else t.pc = s.a3 ∧ t.a0 = t0

/-! ## Extended instructions: multiply, divide, move, search, trace -/

/-- R320, R321: ABINMULTIPLY (nothing is said of the carry) and BINDIVIDE (on overflow nothing is said of A1 and A2). -/
def Obligations.MultiplyAndDivide : Prop :=
  ∀ (s : State),
    (∃ t, exec .abinmultiply s = .next t ∧
      t.a1.toNat * 65536 + t.a2.toNat = s.a0.toNat * s.a2.toNat + s.a1.toNat ∧ t.a0 = s.a0 ∧ t.a3 = s.a3 ∧
      t.pc = s.pc + 1 ∧ SameMemory s t ∧ PlainFree s t) ∧
    (∃ t, exec .bindivide s = .next t ∧ t.a0 = s.a0 ∧ t.a3 = s.a3 ∧ t.pc = s.pc + 1 ∧ SameMemory s t ∧
      PlainFree s t ∧
      if s.a0.toNat ≤ s.a1.toNat then t.c = true
      else t.c = false ∧ t.a2.toNat * s.a0.toNat + t.a1.toNat = s.a1.toNat * 65536 + s.a2.toNat ∧
        t.a1.toNat < s.a0.toNat)

/-- R322, R323: the block moves copy the block, where the areas do not overlap or overlap in the direction the instruction
is for, no act falls between iterations and an interrupt waits for the end. -/
def Obligations.BlockMoves : Prop :=
  ∀ (s : State) (n : Nat), NoGaps s → FullAddresses s → s.cfg.longPoints = .boundaryOnly → n = s.a0.toNat →
    ((∀ i j, i ≤ n → j ≤ n → s.a2 + BitVec.ofNat 16 i ≠ s.a1 + BitVec.ofNat 16 j) ∨
        (s.a1.toNat ≤ s.a2.toNat ∧ s.a2.toNat + n < 65536) →
      ∃ t, exec .movewords s = .next t ∧
        (∀ i, i ≤ n → t.read (s.a2 + BitVec.ofNat 16 i) = s.read (s.a1 + BitVec.ofNat 16 i)) ∧
        (∀ b, (∀ i, i ≤ n → b / 2 ≠ (s.a2 + BitVec.ofNat 16 i).toNat) → memByte t.mem b = memByte s.mem b) ∧
        t.a0 = 0o177777#16 ∧ AcsBut .a0 s t ∧ t.c = false ∧ t.pc = s.pc + 1 ∧ Plain s t) ∧
    ((∀ i j, i ≤ n → j ≤ n → s.a2 - BitVec.ofNat 16 i ≠ s.a1 - BitVec.ofNat 16 j) ∨
        (s.a2.toNat ≤ s.a1.toNat ∧ n ≤ s.a2.toNat) →
      ∃ t, exec .rmovwords s = .next t ∧
        (∀ i, i ≤ n → t.read (s.a2 - BitVec.ofNat 16 i) = s.read (s.a1 - BitVec.ofNat 16 i)) ∧
        (∀ b, (∀ i, i ≤ n → b / 2 ≠ (s.a2 - BitVec.ofNat 16 i).toNat) → memByte t.mem b = memByte s.mem b) ∧
        t.a0 = 0o177777#16 ∧ AcsBut .a0 s t ∧ t.c = false ∧ t.pc = s.pc + 1 ∧ Plain s t)

/-- R324: TABLSEARCH finds the word at the `k`-th stepped address, misses it at the first stepped address that is not below
A3, or, with a step of 0, goes on without end; where no act falls between iterations and an interrupt waits. -/
def Obligations.TableSearch : Prop :=
  ∀ (s : State) (place : Nat → Word), NoGaps s → s.cfg.longPoints = .boundaryOnly →
    (∀ j, place j = s.a2 + BitVec.ofNat 16 j * s.a1) →
    (∀ k, k < 65536 → (∀ j, j < k → s.read (place j) ≠ s.a0 ∧ (place (j + 1)).toNat < s.a3.toNat) →
      s.read (place k) = s.a0 →
      ∃ t, exec .tablsearch s = .next t ∧ t.a2 = place k ∧ t.pc = s.pc + 2 ∧ AcsBut .a2 s t ∧ t.c = s.c ∧
        SameMemory s t ∧ Plain s t) ∧
    (∀ k, k < 65536 → (∀ j, j < k → s.read (place j) ≠ s.a0 ∧ (place (j + 1)).toNat < s.a3.toNat) →
      s.read (place k) ≠ s.a0 → s.a3.toNat ≤ (place (k + 1)).toNat →
      ∃ t, exec .tablsearch s = .next t ∧ t.a2 = place (k + 1) ∧ t.pc = s.pc + 1 ∧ AcsBut .a2 s t ∧ t.c = s.c ∧
        SameMemory s t ∧ Plain s t) ∧
    (s.a1 = 0 → s.read s.a2 ≠ s.a0 → s.a2.toNat < s.a3.toNat →
      ∃ t, exec .tablsearch s = .next t ∧ t.hung.isSome = true ∧ { t with hung := s.hung } = s)

/-- R325: TRACE of an instruction that completes does what that instruction does at the remote address, leaves the remote
next-pc in the second word and goes on after it: of every instruction that completes in one step on every operand, of every
indirect memory reference whose sequence ends, and of NYBSL, NYBSR, MOVEWORDS, RMOVWORDS and TABLSEARCH where they complete
in one step with no act and no interrupt between their iterations. A remote TRACE or HALT is refused (D29). -/
def Obligations.TraceRunsRemote : Prop :=
  ∀ (s : State) (a : Word) (r : Instr), s.hung = none → r = decode s.cfg.enc s.eis (s.read a) (s.read (a + 1)) →
    (oneStep r = true → TraceDone a r s) ∧
    (∀ m e s1, (r ∈ [.jmp m, .jsr m, .isz m, .dsz m] ∨ ∃ ac, r = .lda ac m ∨ r = .sta ac m) →
      Reaches { s with xpc := s.pc + 1, pc := a } m e s1 → TraceDone a r s) ∧
    (r ∈ [.nybsl, .nybsr, .movewords, .rmovwords, .tablsearch] → NoGaps s → s.cfg.longPoints = .boundaryOnly →
      ∀ u, exec r { s with xpc := s.pc + 1, pc := a } = .next u → u.hung = none → TraceDone a r s) ∧
    (∀ b, r = .trace b → exec (.trace a) s = .refused .tracedTrace) ∧
    (∀ ac f, r = .halt ac f → exec (.trace a) s = .refused .tracedHalt)

/-! ## Steps, interrupts, stops -/

/-- A step at which no interrupt is taken runs the decoded instruction: of the word at pc or, where a data channel write
has gone past it, of the word fetched before (R67, R68). The data channel may have its next cycle afterwards (R349); a read
that a parity error has hit delivers its value to this instruction only (log 26). -/
def Obligations.StepRunsInstruction : Prop :=
  ∀ (s : State) (i : Instr) (rest : List Word), s.run = true → s.hung = none → s.inputs = [] → NoInterrupt s →
    decodeWords s.cfg.enc s.eis [s.ahead.getD (s.read s.pc), s.read (s.pc + 1)] = .ok (i, rest) →
    (s.misread = none → step s = exec i { s with ahead := none, dchServed := false }) ∧
    (s.misread ≠ none → ∀ t, exec i { s with ahead := none, dchServed := false } = .next t →
      step s = .next { t with misread := none })

/-- R343, R344, R348: with ION set, no delay pending and a request of a device that is not disabled or of the power monitor,
the interrupt is taken at the boundary (INT_VECTOR_INDIRECT = direct). -/
def Obligations.InterruptEntry : Prop :=
  ∀ (s : State), s.run = true → s.hung = none → s.inputs = [] → s.ion = true → s.ionPending = false →
    ((∃ d ∈ s.devices, d.intReq = true ∧ d.intDisable = false) ∨ s.pwrFail = true) →
    s.cfg.vectorReading = .direct →
    ∃ t, step s = .next t ∧ t.ion = false ∧ t.ionPending = false ∧ t.read 0 = s.pc ∧ t.pc = s.read 1 ∧
      MemoryBut 0 s t ∧ SameAcs s t ∧ t.c = s.c ∧ t.mode64k = s.mode64k ∧ t.eis = s.eis ∧ t.pwrFail = s.pwrFail ∧
      t.run = true ∧ t.parErr = s.parErr ∧ t.sp = s.sp ∧ t.xpc = s.xpc ∧ SameDevices s t ∧ t.panels = s.panels ∧
      t.hung = none ∧ t.draws = s.draws ∧ t.cfg = s.cfg ∧ t.inputs = s.inputs

/-- R345: an instruction that completes clears ION_PENDING unless it sends the S pulse to the processor itself; one that
does leaves ION and ION_PENDING set (TRACE, which runs another instruction, apart). -/
def Obligations.InterruptDelay : Prop :=
  ∀ (i : Instr) (s t : State), (∀ a, i ≠ .trace a) → exec i s = .next t → t.hung = none →
    (setsIon i = false → t.ionPending = false) ∧ (setsIon i = true → t.ion = true ∧ t.ionPending = true)

/-- R350: INTEN followed by JMP @0 returns from an interrupt: two steps, no interrupt between them, and the pc is the word
in location 0 (in 64K mode, or with its top bit clear). -/
def Obligations.ReturnFromInterrupt : Prop :=
  ∀ (s : State), s.run = true → s.hung = none → s.inputs = [] → s.ahead = none → s.misread = none → s.ion = false →
    s.read s.pc = 0o60177#16 → s.read (s.pc + 1) = 0o2000#16 → (s.mode64k = true ∨ (s.read 0).toNat < 32768) →
    ∃ t, Host.Core.run Sys2Proof.core 2 s = .next t ∧ t.pc = s.read 0 ∧ t.ion = true ∧ t.ionPending = false ∧
      SameAcs s t ∧ t.c = s.c ∧ SameMemory s t ∧ t.run = true ∧ t.mode64k = s.mode64k ∧ t.eis = s.eis ∧
      t.devices = s.devices ∧ t.ioTrace = .instr cpuCode .nio .s :: s.ioTrace ∧ t.sp = s.sp ∧ t.xpc = s.xpc

/-- R354: while RUN = 0 no instruction executes and no interrupt is taken; what devices do changes nothing of the processor
but PWRFAIL. -/
def Obligations.StoppedProcessor : Prop :=
  ∀ (s : State), s.run = false →
    (s.inputs = [] → step s = .next { s with dchServed := false }) ∧
    (∀ e rest, s.inputs = .env e :: rest →
      ∃ t, step s = .next t ∧ t.run = false ∧ SameAcs s t ∧ t.c = s.c ∧ t.pc = s.pc ∧ t.ion = s.ion ∧
        t.ionPending = s.ionPending ∧ t.mode64k = s.mode64k ∧ t.eis = s.eis ∧ t.sp = s.sp ∧ t.xpc = s.xpc ∧
        t.parErr = s.parErr ∧ t.hung = s.hung ∧ t.misread = s.misread ∧ t.panels = s.panels ∧ t.cfg = s.cfg)

/-- R61, R62, R64, R68: the input of a started data channel device, among any installed devices, writes its word and nothing
else, the processor running or stopped (D38); the instruction executed next is decoded from the old word or from memory, as
the environment says (R36). With power failing (R63, R349) that holds where no cycle has been performed since the processor's
last turn; where one has, nothing changes. -/
def Obligations.DataChannelInput : Prop :=
  ∀ (s : State) (x : Device) (a v : Word) (stale : Bool) (rest : List Input),
    s.inputs = .env (.dataChannel [.input x.code a v] stale) :: rest → s.panels.power = .on →
    s.hung = none → s.device? x.code = some x → x.dch = true → x.busy = true →
    (s.pwrFail = true → s.dchServed = true → step s = .next { s with inputs := rest }) ∧
    (s.pwrFail = false ∨ s.dchServed = false →
    ∃ t, step s = .next t ∧ memWord t.mem (s.phys a) = v ∧ MemoryBut a s t ∧ SameAcs s t ∧ t.c = s.c ∧ t.pc = s.pc ∧
      SameFlags s t ∧ t.ionPending = s.ionPending ∧ t.sp = s.sp ∧ t.xpc = s.xpc ∧ t.devices = s.devices ∧
      t.inputs = rest ∧ t.hung = none ∧ t.draws = s.draws ∧ t.panels = s.panels ∧ t.cfg = s.cfg ∧
      t.ioTrace = .dchInput x.code a v :: s.ioTrace ∧ t.dchServed = s.pwrFail ∧ t.misread = s.misread ∧
      t.ahead = if stale then some (s.ahead.getD (s.read s.pc)) else none)

/-! ## Operator and power -/

/-- R363, R364, R367, R353, R362: STOP and START on the OCU, where they are alive; CONT on the OCU, alive in any case, the lock
staying; under the lock every other switch of the OCU dead, but RESET, which ends the lock; and the parity halt. The model's choices of log 26: the halt comes before the
instruction whose read is hit, so that no register, no memory word and no pc is changed, which R353 and D24 leave open; and
START drops the read that was hit. -/
def Obligations.StopContinueStart : Prop :=
  ∀ (s : State) (rest : List Input), s.panels.power = .on → s.cfg.ocuPresent = true →
    (s.inputs = .panel (.stop .ocu) :: rest → s.panels.ocuLocked = false → s.run = true → s.hung = none →
      step s = .next { s with inputs := rest, run := false }) ∧
    (s.inputs = .panel (.cont .ocu) :: rest → s.run = false →
      step s = .next { s with inputs := rest, run := true, parErr := false, ahead := none }) ∧
    (s.inputs = .panel .start :: rest → s.panels.ocuLocked = false → s.run = false →
      step s =
        .next { s with inputs := rest, run := true, ahead := none, misread := none, pc := s.panels.ocuData }) ∧
    (∀ a, deadUnderLock a = true → s.inputs = .panel a :: rest → s.panels.ocuLocked = true →
      step s = .next { s with inputs := rest }) ∧
    (s.inputs = .panel .reset :: rest →
      ∃ t, step s = .next t ∧ t.inputs = rest ∧ t.run = false ∧ t.panels.ocuLocked = false) ∧
    (∀ a, s.inputs = .parity (.data a) :: rest → s.cfg.parityOption = true → s.run = true →
      ∃ t, step s = .next t ∧ t.run = false ∧ t.parErr = true ∧ t.panels.ocuLocked = true ∧ SameMemory s t ∧
        SameAcs s t ∧ t.c = s.c ∧ t.pc = s.pc ∧ t.ion = s.ion ∧ t.ionPending = s.ionPending ∧
        t.mode64k = s.mode64k ∧ t.eis = s.eis ∧ t.sp = s.sp ∧ t.xpc = s.xpc ∧ t.hung = s.hung ∧ SameDevices s t)

/-- R366, R392: OCU RESET idles every device, clears ION and both modes and stops the processor, a looping one too. -/
def Obligations.OcuReset : Prop :=
  ∀ (s : State) (rest : List Input), s.inputs = .panel .reset :: rest → s.panels.power = .on →
    s.cfg.ocuPresent = true →
    ∃ t, step s = .next t ∧ AllIdle s t ∧ t.ion = false ∧ t.ionPending = false ∧ t.mode64k = false ∧ t.eis = false ∧
      t.run = false ∧ t.hung = none ∧ SameAcs s t ∧ t.c = s.c ∧ t.pc = s.pc ∧ t.sp = s.sp ∧ t.xpc = s.xpc ∧
      t.pwrFail = s.pwrFail ∧ t.parErr = s.parErr ∧ SameMemory s t ∧ t.panels.ocuLocked = false ∧
      t.panels.ocuData = s.panels.ocuData

/-- R369, R370, R372: EXAM and DEP NEXT on a stopped processor, and a digit on a running or a stopped one. -/
def Obligations.ExamineAndDeposit : Prop :=
  ∀ (s : State) (rest : List Input), s.panels.power = .on → s.cfg.ocuPresent = true → s.panels.ocuLocked = false →
    (s.inputs = .panel .exam :: rest → s.run = false →
      ∃ t, step s = .next t ∧ t.pc = s.panels.ocuData ∧ t.panels.ocuData = memWord s.mem s.panels.ocuData ∧
        SameMemory s t ∧ SameAcs s t ∧ t.c = s.c ∧ SameFlags s t ∧ t.sp = s.sp) ∧
    (s.inputs = .panel .depNext :: rest → s.run = false →
      ∃ t, step s = .next t ∧ t.pc = s.pc + 1 ∧ memWord t.mem (s.pc + 1) = s.panels.ocuData ∧
        (∀ b, b / 2 ≠ (s.pc + 1).toNat → memByte t.mem b = memByte s.mem b) ∧ t.panels = s.panels ∧ SameAcs s t ∧
        t.c = s.c ∧ SameFlags s t ∧ t.sp = s.sp) ∧
    (∀ k, s.inputs = .panel (.digit k) :: rest →
      ∃ t, step s = .next t ∧ t.panels.ocuData.toNat = (s.panels.ocuData.toNat * 8 + k.toNat) % 65536 ∧ t.pc = s.pc ∧
        SameMemory s t ∧ SameAcs s t ∧ t.c = s.c ∧ SameFlags s t ∧ t.sp = s.sp)

/-- R365, R393: APL on a stopped processor, with the Self-Test switch off and the switches below 200: I/O Reset, ION and
PARERR cleared, the old pc at 177000, memory below 177000 kept, the processor running. That ION is 0 afterwards is the spec's
decision D9, that the signal clears both modes its decision D11 (log 36). Nothing is said of what the PROM holds or of where
it starts (log 28). -/
def Obligations.AplLoadsManip : Prop :=
  ∀ (s : State) (rest : List Input), s.inputs = .panel (.apl .mini) :: rest → s.panels.power = .on →
    s.panels.key = .on → s.run = false → s.panels.selfTest = false → s.panels.miniSwitches.toNat < 128 →
    ∃ t, step s = .next t ∧ AllIdle s t ∧ t.ion = false ∧ t.ionPending = false ∧ t.mode64k = false ∧ t.eis = false ∧
      t.parErr = false ∧ t.run = true ∧ t.hung = none ∧ memWord t.mem 0o177000#16 = s.pc ∧
      (∀ b, b < 2 * 0o177000 → memByte t.mem b = memByte s.mem b) ∧ SameAcs s t ∧ t.c = s.c ∧ t.sp = s.sp ∧
      t.xpc = s.xpc

/-- R391, R395: power returns after a failure with battery backup: the pc is 0, the processor runs when the key is at AUTO,
memory the batteries kept is as it was, the flags and the devices are reset. That the same holds after the key has been at
STDBY, which `Power.lost` covers too, is the model's choice (log 27); that both modes are 0 at turn-on is the spec's decision
D11 (log 36), that ION and PWRFAIL are, D9 and D10. -/
def Obligations.PowerReturns : Prop :=
  ∀ (s : State) (v : PowerUp) (rest : List Input), s.inputs = .powerRestored v :: rest → s.panels.power = .lost →
    s.cfg.batteryBackup = true → (s.panels.key = .on ∨ s.panels.key = .auto) →
    ∃ t, step s = .next t ∧ t.pc = 0 ∧ t.run = decide (s.panels.key = .auto) ∧ t.ion = false ∧
      t.ionPending = false ∧ t.mode64k = false ∧ t.eis = false ∧ t.pwrFail = false ∧ AllIdle s t ∧
      (s.panels.memKept = true → SameMemory s t) ∧ t.panels.power = .on ∧ t.hung = none

/-! ## Invariants -/

/-- Every step keeps the invariant. -/
def Obligations.StepKeepsInvariant : Prop :=
  ∀ (s t : State), MachineInv s → step s = .next t → MachineInv t

/-- The invariant holds after reset, and the machine is running at location 0 with every flag R42 names clear and every
device idle (the model's reset is the auto-restart of R395, log 1). -/
def Obligations.ResetMeetsInvariant : Prop :=
  MachineInv State.reset ∧ State.reset.pc = 0 ∧ State.reset.run = true ∧ State.reset.ion = false ∧
    State.reset.ionPending = false ∧ State.reset.mode64k = false ∧ State.reset.eis = false ∧
    State.reset.pwrFail = false ∧ ∀ x ∈ State.reset.devices, Idle x
end

