-- ==== Sys2Proof/Laws/Memory.lean ====
section
/-! SUPPORT. Memory: a read after a write, a write leaves every other byte alone, every operation keeps the canonical
form. -/

namespace Sys2Proof.Laws

open Sys2Proof.Machine

/-! ### The list of cells -/

theorem find_insertCell_same (a : Nat) (v : Byte) (m : Memory) (h : ∀ e ∈ m, e.1 ≠ a) :
    (insertCell a v m).find? (fun e => e.1 == a) = some (a, v) := by
  induction m with
  | nil => simp [insertCell]
  | cons e t ih =>
    have he : e.1 ≠ a := h e (by simp)
    by_cases hlt : a < e.1
    · simp [insertCell, hlt]
    · simpa [insertCell, hlt, he] using ih fun x hx => h x (by simp [hx])

theorem find_insertCell_other (a b : Nat) (v : Byte) (m : Memory) (h : b ≠ a) :
    (insertCell a v m).find? (fun e => e.1 == b) = m.find? (fun e => e.1 == b) := by
  have hab : (a == b) = false := by simpa using fun e => h e.symm
  induction m with
  | nil => simp [insertCell, hab]
  | cons e t ih =>
    by_cases hlt : a < e.1
    · simp [insertCell, hlt, hab]
    · simp only [insertCell, hlt, if_false]
      by_cases he : e.1 = b
      · simp [he]
      · simpa [he] using ih

theorem mem_insertCell (a : Nat) (v : Byte) (m : Memory) (x : Host.Cell) :
    x ∈ insertCell a v m ↔ x = (a, v) ∨ x ∈ m := by
  induction m with
  | nil => simp [insertCell]
  | cons e t ih =>
    by_cases hlt : a < e.1
    · simp [insertCell, hlt]
    · simp only [insertCell, hlt, if_false, List.mem_cons, ih]; tauto

theorem insertCell_sorted (a : Nat) (v : Byte) (m : Memory) (hm : m.Pairwise fun x y => x.1 < y.1)
    (h : ∀ e ∈ m, e.1 ≠ a) : (insertCell a v m).Pairwise fun x y => x.1 < y.1 := by
  induction m with
  | nil => simp [insertCell]
  | cons e t ih =>
    have hp := List.pairwise_cons.1 hm
    have he : e.1 ≠ a := h e (by simp)
    by_cases hlt : a < e.1
    · simp only [insertCell, hlt, if_true]
      refine List.pairwise_cons.2 ⟨?_, hm⟩
      intro x hx
      rcases List.mem_cons.1 hx with rfl | hx
      · exact hlt
      · exact lt_trans hlt (hp.1 x hx)
    · simp only [insertCell, hlt, if_false]
      refine List.pairwise_cons.2 ⟨?_, ih hp.2 fun x hx => h x (by simp [hx])⟩
      intro x hx
      rcases (mem_insertCell a v t x).1 hx with rfl | hx
      · show e.1 < a
        omega
      · exact hp.1 x hx

/-! ### One byte -/

theorem filter_ne (m : Memory) (a : Nat) : ∀ e ∈ m.filter (fun e => e.1 != a), e.1 ≠ a := by
  intro e he; simpa using (List.mem_filter.1 he).2

theorem memByte_setByte_same (m : Memory) (a : Nat) (v : Byte) : memByte (setByte m a v) a = v := by
  unfold setByte memByte
  by_cases hv : v = unlistedByte
  · have hn : (m.filter fun e => e.1 != a).find? (fun e => e.1 == a) = none := by
      simp [List.find?_eq_none]
    simp [hv, hn]
  · simp [hv, find_insertCell_same a v _ (filter_ne m a)]

theorem find_filter_other (m : Memory) (a b : Nat) (h : b ≠ a) :
    (m.filter fun e => e.1 != a).find? (fun e => e.1 == b) = m.find? (fun e => e.1 == b) := by
  induction m with
  | nil => rfl
  | cons e t ih =>
    by_cases ha : e.1 = a
    · have : (a == b) = false := by simpa using fun e => h e.symm
      simp [ha, ih, this]
    · by_cases hb : e.1 = b
      · simp [hb, h]
      · simp [ha, hb, ih]

theorem memByte_setByte_other (m : Memory) (a b : Nat) (v : Byte) (h : b ≠ a) :
    memByte (setByte m a v) b = memByte m b := by
  unfold setByte memByte
  by_cases hv : v = unlistedByte
  · simp [hv, find_filter_other m a b h]
  · simp [hv, find_insertCell_other a b v _ h, find_filter_other m a b h]

theorem setByte_wf (m : Memory) (a : Nat) (v : Byte) (hm : Memory.wf m) (ha : a < 131072) : Memory.wf (setByte m a v) := by
  have hs : (m.filter fun e => e.1 != a).Pairwise fun x y => x.1 < y.1 := hm.1.filter _
  have hc : ∀ e ∈ m.filter (fun e => e.1 != a), e.2 ≠ unlistedByte ∧ e.1 < 131072 :=
    fun e he => hm.2 e (List.mem_filter.1 he).1
  unfold setByte
  by_cases hv : v = unlistedByte
  · simp only [hv, beq_self_eq_true, if_true]
    exact ⟨hs, hc⟩
  · simp only [hv, beq_iff_eq, if_false]
    refine ⟨insertCell_sorted a v _ hs (filter_ne m a), fun e he => ?_⟩
    rcases (mem_insertCell a v _ e).1 he with rfl | he
    · exact ⟨hv, ha⟩
    · exact hc e he

/-! ### One word -/

theorem memByte_setWord_high (m : Memory) (a v : Word) :
    memByte (setWord m a v) (2 * a.toNat) = v.extractLsb' 8 8 := by
  rw [setWord, memByte_setByte_other _ _ _ _ (by omega), memByte_setByte_same]

theorem memByte_setWord_low (m : Memory) (a v : Word) :
    memByte (setWord m a v) (2 * a.toNat + 1) = v.extractLsb' 0 8 := by
  rw [setWord, memByte_setByte_same]

/-- A write leaves every byte outside the word alone. -/
theorem memByte_setWord_other (m : Memory) (a v : Word) (b : Nat) (h0 : b ≠ 2 * a.toNat) (h1 : b ≠ 2 * a.toNat + 1) :
    memByte (setWord m a v) b = memByte m b := by
  rw [setWord, memByte_setByte_other _ _ _ _ h1, memByte_setByte_other _ _ _ _ h0]

/-- A read after a write to the same word gives the word written. -/
theorem memWord_setWord_same (m : Memory) (a v : Word) : memWord (setWord m a v) a = v := by
  unfold memWord
  rw [memByte_setWord_high, memByte_setWord_low]
  ext i hi
  simp only [BitVec.getElem_append, BitVec.getElem_extractLsb']
  split
  · simp [BitVec.getLsbD_eq_getElem hi]
  · rw [show 8 + (i - 8) = i by omega, BitVec.getLsbD_eq_getElem hi]

/-- A write leaves every other word alone. -/
theorem memWord_setWord_other (m : Memory) (a b v : Word) (h : b ≠ a) : memWord (setWord m a v) b = memWord m b := by
  have hn : b.toNat ≠ a.toNat := fun e => h (BitVec.eq_of_toNat_eq e)
  unfold memWord
  rw [memByte_setWord_other _ _ _ _ (by omega) (by omega), memByte_setWord_other _ _ _ _ (by omega) (by omega)]

theorem setWord_wf (m : Memory) (a v : Word) (hm : Memory.wf m) : Memory.wf (setWord m a v) := by
  have := a.isLt
  exact setByte_wf _ _ _ (setByte_wf _ _ _ hm (by omega)) (by omega)

/-! ### The machine's accesses -/

/-- With no parity error pending a read delivers what memory holds. -/
theorem read_stored (s : State) (a : Word) (h : s.misread = none) : s.read a = s.stored a := by simp [State.read, h]

/-- After a parity error the read of the word it hit delivers the free value. -/
theorem read_misread (s : State) (a v : Word) (h : s.misread = some (s.phys a, v)) : s.read a = v := by
  simp [State.read, h]

theorem stored_write_same (s : State) (a v : Word) : (s.write a v).stored a = v := memWord_setWord_same _ _ _

theorem stored_write_other (s : State) (a b v : Word) (h : s.phys b ≠ s.phys a) : (s.write a v).stored b = s.stored b :=
  memWord_setWord_other _ _ _ _ h

/-- A read after a write to the same word gives the word written, a parity error at that word or not. -/
theorem read_write_same (s : State) (a v : Word) : (s.write a v).read a = v := by
  have hs := stored_write_same s a v
  have hm : (s.write a v).misread = s.misread.filter fun m => m.1 != s.phys a := rfl
  have hp : (s.write a v).phys a = s.phys a := rfl
  unfold State.read
  rw [hm, hs, hp]
  cases s.misread with
  | none => rfl
  | some m => by_cases h : m.1 = s.phys a <;> simp [Option.filter, h]

/-- A write leaves the read of every other word alone. -/
theorem read_write_other (s : State) (a b v : Word) (h : s.phys b ≠ s.phys a) : (s.write a v).read b = s.read b := by
  have hs := stored_write_other s a b v h
  have hm : (s.write a v).misread = s.misread.filter fun m => m.1 != s.phys a := rfl
  have hp : (s.write a v).phys b = s.phys b := rfl
  unfold State.read
  rw [hm, hs, hp]
  cases s.misread with
  | none => rfl
  | some m =>
    by_cases hb : m.1 = s.phys b
    · simp [Option.filter, hb, h]
    · by_cases ha : m.1 = s.phys a <;> simp [Option.filter, ha, hb, h.symm]

theorem memByte_write_other (s : State) (a v : Word) (b : Nat) (h0 : b ≠ 2 * (s.phys a).toNat)
    (h1 : b ≠ 2 * (s.phys a).toNat + 1) : memByte (s.write a v).mem b = memByte s.mem b :=
  memByte_setWord_other _ _ _ _ h0 h1

theorem write_wf (s : State) (a v : Word) (h : Memory.wf s.mem) : Memory.wf (s.write a v).mem := setWord_wf _ _ _ h

/-- A memory given by its cells is in canonical form. -/
theorem memoryOf_wf (cells : List Host.Cell) : Memory.wf (memoryOf cells) := by
  unfold memoryOf
  suffices h : ∀ (l : List Host.Cell) (m : Memory), Memory.wf m →
      Memory.wf (l.foldl (fun m e => if e.1 < 131072 then setByte m e.1 e.2 else m) m) from
    h cells [] ⟨List.Pairwise.nil, by simp⟩
  intro l
  induction l with
  | nil => exact fun m h => h
  | cons e t ih =>
    intro m h
    refine ih _ ?_
    by_cases he : e.1 < 131072
    · simpa only [he, if_true] using setByte_wf m _ e.2 h he
    · simpa only [he, if_false] using h

/-- The PROM is copied into memory in canonical form. -/
theorem loadProm_wf (c : Config) (n : Nat) (m : Memory) (h : Memory.wf m) : Memory.wf (loadProm c n m) := by
  induction n with
  | zero => exact h
  | succ n ih => exact setWord_wf _ _ _ ih

/-- The memory after reset is in canonical form. -/
theorem reset_memory_wf : Memory.wf State.reset.mem := ⟨List.Pairwise.nil, by simp [State.reset]⟩

end Sys2Proof.Laws
end

