-- ==== Sys2Proof/Laws/State.lean ====
section
/-! SUPPORT. One lemma per field for each update of the state that the meanings share, so that no later proof unfolds a
record update. Each is `<field>_<update>`. -/

namespace Sys2Proof.Laws

open Sys2Proof.Machine

/-! ### State.setAc -/

@[simp] theorem c_setAc (s : State) (n : Ac) (v : Word) : (s.setAc n v).c = s.c := by cases n <;> rfl
@[simp] theorem pc_setAc (s : State) (n : Ac) (v : Word) : (s.setAc n v).pc = s.pc := by cases n <;> rfl
@[simp] theorem ion_setAc (s : State) (n : Ac) (v : Word) : (s.setAc n v).ion = s.ion := by cases n <;> rfl
@[simp] theorem ionPending_setAc (s : State) (n : Ac) (v : Word) : (s.setAc n v).ionPending = s.ionPending := by cases n <;> rfl
@[simp] theorem mode64k_setAc (s : State) (n : Ac) (v : Word) : (s.setAc n v).mode64k = s.mode64k := by cases n <;> rfl
@[simp] theorem eis_setAc (s : State) (n : Ac) (v : Word) : (s.setAc n v).eis = s.eis := by cases n <;> rfl
@[simp] theorem pwrFail_setAc (s : State) (n : Ac) (v : Word) : (s.setAc n v).pwrFail = s.pwrFail := by cases n <;> rfl
@[simp] theorem sp_setAc (s : State) (n : Ac) (v : Word) : (s.setAc n v).sp = s.sp := by cases n <;> rfl
@[simp] theorem xpc_setAc (s : State) (n : Ac) (v : Word) : (s.setAc n v).xpc = s.xpc := by cases n <;> rfl
@[simp] theorem run_setAc (s : State) (n : Ac) (v : Word) : (s.setAc n v).run = s.run := by cases n <;> rfl
@[simp] theorem parErr_setAc (s : State) (n : Ac) (v : Word) : (s.setAc n v).parErr = s.parErr := by cases n <;> rfl
@[simp] theorem mem_setAc (s : State) (n : Ac) (v : Word) : (s.setAc n v).mem = s.mem := by cases n <;> rfl
@[simp] theorem devices_setAc (s : State) (n : Ac) (v : Word) : (s.setAc n v).devices = s.devices := by cases n <;> rfl
@[simp] theorem ahead_setAc (s : State) (n : Ac) (v : Word) : (s.setAc n v).ahead = s.ahead := by cases n <;> rfl
@[simp] theorem hung_setAc (s : State) (n : Ac) (v : Word) : (s.setAc n v).hung = s.hung := by cases n <;> rfl
@[simp] theorem misread_setAc (s : State) (n : Ac) (v : Word) : (s.setAc n v).misread = s.misread := by cases n <;> rfl
@[simp] theorem dchServed_setAc (s : State) (n : Ac) (v : Word) : (s.setAc n v).dchServed = s.dchServed := by cases n <;> rfl
@[simp] theorem panels_setAc (s : State) (n : Ac) (v : Word) : (s.setAc n v).panels = s.panels := by cases n <;> rfl
@[simp] theorem cfg_setAc (s : State) (n : Ac) (v : Word) : (s.setAc n v).cfg = s.cfg := by cases n <;> rfl
@[simp] theorem inputs_setAc (s : State) (n : Ac) (v : Word) : (s.setAc n v).inputs = s.inputs := by cases n <;> rfl
@[simp] theorem ioTrace_setAc (s : State) (n : Ac) (v : Word) : (s.setAc n v).ioTrace = s.ioTrace := by cases n <;> rfl
@[simp] theorem draws_setAc (s : State) (n : Ac) (v : Word) : (s.setAc n v).draws = s.draws := by cases n <;> rfl

@[simp] theorem ac_setAc_same (s : State) (n : Ac) (v : Word) : (s.setAc n v).ac n = v := by cases n <;> rfl
theorem ac_setAc_other (s : State) (n k : Ac) (v : Word) (h : k ≠ n) : (s.setAc n v).ac k = s.ac k := by
  cases n <;> cases k <;> first | rfl | exact absurd rfl h

/-! ### State.store -/

@[simp] theorem a0_store (s : State) (a v : Word) : (s.store a v).a0 = s.a0 := rfl
@[simp] theorem a1_store (s : State) (a v : Word) : (s.store a v).a1 = s.a1 := rfl
@[simp] theorem a2_store (s : State) (a v : Word) : (s.store a v).a2 = s.a2 := rfl
@[simp] theorem a3_store (s : State) (a v : Word) : (s.store a v).a3 = s.a3 := rfl
@[simp] theorem c_store (s : State) (a v : Word) : (s.store a v).c = s.c := rfl
@[simp] theorem pc_store (s : State) (a v : Word) : (s.store a v).pc = s.pc := rfl
@[simp] theorem ion_store (s : State) (a v : Word) : (s.store a v).ion = s.ion := rfl
@[simp] theorem ionPending_store (s : State) (a v : Word) : (s.store a v).ionPending = s.ionPending := rfl
@[simp] theorem mode64k_store (s : State) (a v : Word) : (s.store a v).mode64k = s.mode64k := rfl
@[simp] theorem eis_store (s : State) (a v : Word) : (s.store a v).eis = s.eis := rfl
@[simp] theorem pwrFail_store (s : State) (a v : Word) : (s.store a v).pwrFail = s.pwrFail := rfl
@[simp] theorem sp_store (s : State) (a v : Word) : (s.store a v).sp = s.sp := rfl
@[simp] theorem xpc_store (s : State) (a v : Word) : (s.store a v).xpc = s.xpc := rfl
@[simp] theorem run_store (s : State) (a v : Word) : (s.store a v).run = s.run := rfl
@[simp] theorem parErr_store (s : State) (a v : Word) : (s.store a v).parErr = s.parErr := rfl
@[simp] theorem mem_store (s : State) (a v : Word) : (s.store a v).mem = setWord s.mem (s.phys a) v := rfl
@[simp] theorem devices_store (s : State) (a v : Word) : (s.store a v).devices = s.devices := rfl
@[simp] theorem ahead_store (s : State) (a v : Word) : (s.store a v).ahead = s.ahead := rfl
@[simp] theorem hung_store (s : State) (a v : Word) : (s.store a v).hung = s.hung := rfl
@[simp] theorem misread_store (s : State) (a v : Word) : (s.store a v).misread = s.misread := rfl
@[simp] theorem dchServed_store (s : State) (a v : Word) : (s.store a v).dchServed = s.dchServed := rfl
@[simp] theorem panels_store (s : State) (a v : Word) : (s.store a v).panels = s.panels := rfl
@[simp] theorem cfg_store (s : State) (a v : Word) : (s.store a v).cfg = s.cfg := rfl
@[simp] theorem inputs_store (s : State) (a v : Word) : (s.store a v).inputs = s.inputs := rfl
@[simp] theorem ioTrace_store (s : State) (a v : Word) : (s.store a v).ioTrace = s.ioTrace := rfl
@[simp] theorem draws_store (s : State) (a v : Word) : (s.store a v).draws = s.draws := rfl
@[simp] theorem ac_store (s : State) (a v : Word) (k : Ac) : (s.store a v).ac k = s.ac k := by cases k <;> rfl

/-! ### State.write -/

@[simp] theorem a0_write (s : State) (a v : Word) : (s.write a v).a0 = s.a0 := rfl
@[simp] theorem a1_write (s : State) (a v : Word) : (s.write a v).a1 = s.a1 := rfl
@[simp] theorem a2_write (s : State) (a v : Word) : (s.write a v).a2 = s.a2 := rfl
@[simp] theorem a3_write (s : State) (a v : Word) : (s.write a v).a3 = s.a3 := rfl
@[simp] theorem c_write (s : State) (a v : Word) : (s.write a v).c = s.c := rfl
@[simp] theorem pc_write (s : State) (a v : Word) : (s.write a v).pc = s.pc := rfl
@[simp] theorem ion_write (s : State) (a v : Word) : (s.write a v).ion = s.ion := rfl
@[simp] theorem ionPending_write (s : State) (a v : Word) : (s.write a v).ionPending = s.ionPending := rfl
@[simp] theorem mode64k_write (s : State) (a v : Word) : (s.write a v).mode64k = s.mode64k := rfl
@[simp] theorem eis_write (s : State) (a v : Word) : (s.write a v).eis = s.eis := rfl
@[simp] theorem pwrFail_write (s : State) (a v : Word) : (s.write a v).pwrFail = s.pwrFail := rfl
@[simp] theorem sp_write (s : State) (a v : Word) : (s.write a v).sp = s.sp := rfl
@[simp] theorem xpc_write (s : State) (a v : Word) : (s.write a v).xpc = s.xpc := rfl
@[simp] theorem run_write (s : State) (a v : Word) : (s.write a v).run = s.run := rfl
@[simp] theorem parErr_write (s : State) (a v : Word) : (s.write a v).parErr = s.parErr := rfl
@[simp] theorem mem_write (s : State) (a v : Word) : (s.write a v).mem = setWord s.mem (s.phys a) v := rfl
@[simp] theorem devices_write (s : State) (a v : Word) : (s.write a v).devices = s.devices := rfl
@[simp] theorem ahead_write (s : State) (a v : Word) : (s.write a v).ahead = s.ahead := rfl
@[simp] theorem hung_write (s : State) (a v : Word) : (s.write a v).hung = s.hung := rfl
@[simp] theorem misread_write (s : State) (a v : Word) : (s.write a v).misread = s.misread.filter fun m => m.1 != s.phys a := rfl
@[simp] theorem dchServed_write (s : State) (a v : Word) : (s.write a v).dchServed = s.dchServed := rfl
@[simp] theorem panels_write (s : State) (a v : Word) : (s.write a v).panels = s.panels := rfl
@[simp] theorem cfg_write (s : State) (a v : Word) : (s.write a v).cfg = s.cfg := rfl
@[simp] theorem inputs_write (s : State) (a v : Word) : (s.write a v).inputs = s.inputs := rfl
@[simp] theorem ioTrace_write (s : State) (a v : Word) : (s.write a v).ioTrace = s.ioTrace := rfl
@[simp] theorem draws_write (s : State) (a v : Word) : (s.write a v).draws = s.draws := rfl
@[simp] theorem ac_write (s : State) (a v : Word) (k : Ac) : (s.write a v).ac k = s.ac k := by cases k <;> rfl

/-! ### State.complete -/

@[simp] theorem a0_complete (s : State) (next : Word) : (s.complete next).a0 = s.a0 := rfl
@[simp] theorem a1_complete (s : State) (next : Word) : (s.complete next).a1 = s.a1 := rfl
@[simp] theorem a2_complete (s : State) (next : Word) : (s.complete next).a2 = s.a2 := rfl
@[simp] theorem a3_complete (s : State) (next : Word) : (s.complete next).a3 = s.a3 := rfl
@[simp] theorem c_complete (s : State) (next : Word) : (s.complete next).c = s.c := rfl
@[simp] theorem pc_complete (s : State) (next : Word) : (s.complete next).pc = next := rfl
@[simp] theorem ion_complete (s : State) (next : Word) : (s.complete next).ion = s.ion := rfl
@[simp] theorem ionPending_complete (s : State) (next : Word) : (s.complete next).ionPending = false := rfl
@[simp] theorem mode64k_complete (s : State) (next : Word) : (s.complete next).mode64k = s.mode64k := rfl
@[simp] theorem eis_complete (s : State) (next : Word) : (s.complete next).eis = s.eis := rfl
@[simp] theorem pwrFail_complete (s : State) (next : Word) : (s.complete next).pwrFail = s.pwrFail := rfl
@[simp] theorem sp_complete (s : State) (next : Word) : (s.complete next).sp = s.sp := rfl
@[simp] theorem xpc_complete (s : State) (next : Word) : (s.complete next).xpc = s.xpc := rfl
@[simp] theorem run_complete (s : State) (next : Word) : (s.complete next).run = s.run := rfl
@[simp] theorem parErr_complete (s : State) (next : Word) : (s.complete next).parErr = s.parErr := rfl
@[simp] theorem mem_complete (s : State) (next : Word) : (s.complete next).mem = s.mem := rfl
@[simp] theorem devices_complete (s : State) (next : Word) : (s.complete next).devices = s.devices := rfl
@[simp] theorem ahead_complete (s : State) (next : Word) : (s.complete next).ahead = s.ahead := rfl
@[simp] theorem hung_complete (s : State) (next : Word) : (s.complete next).hung = s.hung := rfl
@[simp] theorem misread_complete (s : State) (next : Word) : (s.complete next).misread = s.misread := rfl
@[simp] theorem dchServed_complete (s : State) (next : Word) : (s.complete next).dchServed = s.dchServed := rfl
@[simp] theorem panels_complete (s : State) (next : Word) : (s.complete next).panels = s.panels := rfl
@[simp] theorem cfg_complete (s : State) (next : Word) : (s.complete next).cfg = s.cfg := rfl
@[simp] theorem inputs_complete (s : State) (next : Word) : (s.complete next).inputs = s.inputs := rfl
@[simp] theorem ioTrace_complete (s : State) (next : Word) : (s.complete next).ioTrace = s.ioTrace := rfl
@[simp] theorem draws_complete (s : State) (next : Word) : (s.complete next).draws = s.draws := rfl
@[simp] theorem ac_complete (s : State) (next : Word) (k : Ac) : (s.complete next).ac k = s.ac k := by cases k <;> rfl

/-! ### State.advance -/

@[simp] theorem a0_advance (s : State) (len : Word) (skips : Bool) : (s.advance len skips).a0 = s.a0 := rfl
@[simp] theorem a1_advance (s : State) (len : Word) (skips : Bool) : (s.advance len skips).a1 = s.a1 := rfl
@[simp] theorem a2_advance (s : State) (len : Word) (skips : Bool) : (s.advance len skips).a2 = s.a2 := rfl
@[simp] theorem a3_advance (s : State) (len : Word) (skips : Bool) : (s.advance len skips).a3 = s.a3 := rfl
@[simp] theorem c_advance (s : State) (len : Word) (skips : Bool) : (s.advance len skips).c = s.c := rfl
@[simp] theorem pc_advance (s : State) (len : Word) (skips : Bool) : (s.advance len skips).pc = if skips then s.pc + len + 1 else s.pc + len := rfl
@[simp] theorem ion_advance (s : State) (len : Word) (skips : Bool) : (s.advance len skips).ion = s.ion := rfl
@[simp] theorem ionPending_advance (s : State) (len : Word) (skips : Bool) : (s.advance len skips).ionPending = false := rfl
@[simp] theorem mode64k_advance (s : State) (len : Word) (skips : Bool) : (s.advance len skips).mode64k = s.mode64k := rfl
@[simp] theorem eis_advance (s : State) (len : Word) (skips : Bool) : (s.advance len skips).eis = s.eis := rfl
@[simp] theorem pwrFail_advance (s : State) (len : Word) (skips : Bool) : (s.advance len skips).pwrFail = s.pwrFail := rfl
@[simp] theorem sp_advance (s : State) (len : Word) (skips : Bool) : (s.advance len skips).sp = s.sp := rfl
@[simp] theorem xpc_advance (s : State) (len : Word) (skips : Bool) : (s.advance len skips).xpc = s.xpc := rfl
@[simp] theorem run_advance (s : State) (len : Word) (skips : Bool) : (s.advance len skips).run = s.run := rfl
@[simp] theorem parErr_advance (s : State) (len : Word) (skips : Bool) : (s.advance len skips).parErr = s.parErr := rfl
@[simp] theorem mem_advance (s : State) (len : Word) (skips : Bool) : (s.advance len skips).mem = s.mem := rfl
@[simp] theorem devices_advance (s : State) (len : Word) (skips : Bool) : (s.advance len skips).devices = s.devices := rfl
@[simp] theorem ahead_advance (s : State) (len : Word) (skips : Bool) : (s.advance len skips).ahead = s.ahead := rfl
@[simp] theorem hung_advance (s : State) (len : Word) (skips : Bool) : (s.advance len skips).hung = s.hung := rfl
@[simp] theorem misread_advance (s : State) (len : Word) (skips : Bool) : (s.advance len skips).misread = s.misread := rfl
@[simp] theorem dchServed_advance (s : State) (len : Word) (skips : Bool) : (s.advance len skips).dchServed = s.dchServed := rfl
@[simp] theorem panels_advance (s : State) (len : Word) (skips : Bool) : (s.advance len skips).panels = s.panels := rfl
@[simp] theorem cfg_advance (s : State) (len : Word) (skips : Bool) : (s.advance len skips).cfg = s.cfg := rfl
@[simp] theorem inputs_advance (s : State) (len : Word) (skips : Bool) : (s.advance len skips).inputs = s.inputs := rfl
@[simp] theorem ioTrace_advance (s : State) (len : Word) (skips : Bool) : (s.advance len skips).ioTrace = s.ioTrace := rfl
@[simp] theorem draws_advance (s : State) (len : Word) (skips : Bool) : (s.advance len skips).draws = s.draws := rfl
@[simp] theorem ac_advance (s : State) (len : Word) (skips : Bool) (k : Ac) : (s.advance len skips).ac k = s.ac k := by cases k <;> rfl

/-! ### State.drawn -/

@[simp] theorem a0_drawn (s : State) (n : Nat) : (s.drawn n).a0 = s.a0 := rfl
@[simp] theorem a1_drawn (s : State) (n : Nat) : (s.drawn n).a1 = s.a1 := rfl
@[simp] theorem a2_drawn (s : State) (n : Nat) : (s.drawn n).a2 = s.a2 := rfl
@[simp] theorem a3_drawn (s : State) (n : Nat) : (s.drawn n).a3 = s.a3 := rfl
@[simp] theorem c_drawn (s : State) (n : Nat) : (s.drawn n).c = s.c := rfl
@[simp] theorem pc_drawn (s : State) (n : Nat) : (s.drawn n).pc = s.pc := rfl
@[simp] theorem ion_drawn (s : State) (n : Nat) : (s.drawn n).ion = s.ion := rfl
@[simp] theorem ionPending_drawn (s : State) (n : Nat) : (s.drawn n).ionPending = s.ionPending := rfl
@[simp] theorem mode64k_drawn (s : State) (n : Nat) : (s.drawn n).mode64k = s.mode64k := rfl
@[simp] theorem eis_drawn (s : State) (n : Nat) : (s.drawn n).eis = s.eis := rfl
@[simp] theorem pwrFail_drawn (s : State) (n : Nat) : (s.drawn n).pwrFail = s.pwrFail := rfl
@[simp] theorem sp_drawn (s : State) (n : Nat) : (s.drawn n).sp = s.sp := rfl
@[simp] theorem xpc_drawn (s : State) (n : Nat) : (s.drawn n).xpc = s.xpc := rfl
@[simp] theorem run_drawn (s : State) (n : Nat) : (s.drawn n).run = s.run := rfl
@[simp] theorem parErr_drawn (s : State) (n : Nat) : (s.drawn n).parErr = s.parErr := rfl
@[simp] theorem mem_drawn (s : State) (n : Nat) : (s.drawn n).mem = s.mem := rfl
@[simp] theorem devices_drawn (s : State) (n : Nat) : (s.drawn n).devices = s.devices := rfl
@[simp] theorem ahead_drawn (s : State) (n : Nat) : (s.drawn n).ahead = s.ahead := rfl
@[simp] theorem hung_drawn (s : State) (n : Nat) : (s.drawn n).hung = s.hung := rfl
@[simp] theorem misread_drawn (s : State) (n : Nat) : (s.drawn n).misread = s.misread := rfl
@[simp] theorem dchServed_drawn (s : State) (n : Nat) : (s.drawn n).dchServed = s.dchServed := rfl
@[simp] theorem panels_drawn (s : State) (n : Nat) : (s.drawn n).panels = s.panels := rfl
@[simp] theorem cfg_drawn (s : State) (n : Nat) : (s.drawn n).cfg = s.cfg := rfl
@[simp] theorem inputs_drawn (s : State) (n : Nat) : (s.drawn n).inputs = s.inputs := rfl
@[simp] theorem ioTrace_drawn (s : State) (n : Nat) : (s.drawn n).ioTrace = s.ioTrace := rfl
@[simp] theorem draws_drawn (s : State) (n : Nat) : (s.drawn n).draws = s.draws + n := rfl
@[simp] theorem ac_drawn (s : State) (n : Nat) (k : Ac) : (s.drawn n).ac k = s.ac k := by cases k <;> rfl

/-! ### State.record -/

@[simp] theorem a0_record (s : State) (e : IoEvent) : (s.record e).a0 = s.a0 := rfl
@[simp] theorem a1_record (s : State) (e : IoEvent) : (s.record e).a1 = s.a1 := rfl
@[simp] theorem a2_record (s : State) (e : IoEvent) : (s.record e).a2 = s.a2 := rfl
@[simp] theorem a3_record (s : State) (e : IoEvent) : (s.record e).a3 = s.a3 := rfl
@[simp] theorem c_record (s : State) (e : IoEvent) : (s.record e).c = s.c := rfl
@[simp] theorem pc_record (s : State) (e : IoEvent) : (s.record e).pc = s.pc := rfl
@[simp] theorem ion_record (s : State) (e : IoEvent) : (s.record e).ion = s.ion := rfl
@[simp] theorem ionPending_record (s : State) (e : IoEvent) : (s.record e).ionPending = s.ionPending := rfl
@[simp] theorem mode64k_record (s : State) (e : IoEvent) : (s.record e).mode64k = s.mode64k := rfl
@[simp] theorem eis_record (s : State) (e : IoEvent) : (s.record e).eis = s.eis := rfl
@[simp] theorem pwrFail_record (s : State) (e : IoEvent) : (s.record e).pwrFail = s.pwrFail := rfl
@[simp] theorem sp_record (s : State) (e : IoEvent) : (s.record e).sp = s.sp := rfl
@[simp] theorem xpc_record (s : State) (e : IoEvent) : (s.record e).xpc = s.xpc := rfl
@[simp] theorem run_record (s : State) (e : IoEvent) : (s.record e).run = s.run := rfl
@[simp] theorem parErr_record (s : State) (e : IoEvent) : (s.record e).parErr = s.parErr := rfl
@[simp] theorem mem_record (s : State) (e : IoEvent) : (s.record e).mem = s.mem := rfl
@[simp] theorem devices_record (s : State) (e : IoEvent) : (s.record e).devices = s.devices := rfl
@[simp] theorem ahead_record (s : State) (e : IoEvent) : (s.record e).ahead = s.ahead := rfl
@[simp] theorem hung_record (s : State) (e : IoEvent) : (s.record e).hung = s.hung := rfl
@[simp] theorem misread_record (s : State) (e : IoEvent) : (s.record e).misread = s.misread := rfl
@[simp] theorem dchServed_record (s : State) (e : IoEvent) : (s.record e).dchServed = s.dchServed := rfl
@[simp] theorem panels_record (s : State) (e : IoEvent) : (s.record e).panels = s.panels := rfl
@[simp] theorem cfg_record (s : State) (e : IoEvent) : (s.record e).cfg = s.cfg := rfl
@[simp] theorem inputs_record (s : State) (e : IoEvent) : (s.record e).inputs = s.inputs := rfl
@[simp] theorem ioTrace_record (s : State) (e : IoEvent) : (s.record e).ioTrace = e :: s.ioTrace := rfl
@[simp] theorem draws_record (s : State) (e : IoEvent) : (s.record e).draws = s.draws := rfl
@[simp] theorem ac_record (s : State) (e : IoEvent) (k : Ac) : (s.record e).ac k = s.ac k := by cases k <;> rfl

/-! ### State.onDevice -/

@[simp] theorem a0_onDevice (s : State) (d : DevCode) (f : Device → Device) : (s.onDevice d f).a0 = s.a0 := rfl
@[simp] theorem a1_onDevice (s : State) (d : DevCode) (f : Device → Device) : (s.onDevice d f).a1 = s.a1 := rfl
@[simp] theorem a2_onDevice (s : State) (d : DevCode) (f : Device → Device) : (s.onDevice d f).a2 = s.a2 := rfl
@[simp] theorem a3_onDevice (s : State) (d : DevCode) (f : Device → Device) : (s.onDevice d f).a3 = s.a3 := rfl
@[simp] theorem c_onDevice (s : State) (d : DevCode) (f : Device → Device) : (s.onDevice d f).c = s.c := rfl
@[simp] theorem pc_onDevice (s : State) (d : DevCode) (f : Device → Device) : (s.onDevice d f).pc = s.pc := rfl
@[simp] theorem ion_onDevice (s : State) (d : DevCode) (f : Device → Device) : (s.onDevice d f).ion = s.ion := rfl
@[simp] theorem ionPending_onDevice (s : State) (d : DevCode) (f : Device → Device) : (s.onDevice d f).ionPending = s.ionPending := rfl
@[simp] theorem mode64k_onDevice (s : State) (d : DevCode) (f : Device → Device) : (s.onDevice d f).mode64k = s.mode64k := rfl
@[simp] theorem eis_onDevice (s : State) (d : DevCode) (f : Device → Device) : (s.onDevice d f).eis = s.eis := rfl
@[simp] theorem pwrFail_onDevice (s : State) (d : DevCode) (f : Device → Device) : (s.onDevice d f).pwrFail = s.pwrFail := rfl
@[simp] theorem sp_onDevice (s : State) (d : DevCode) (f : Device → Device) : (s.onDevice d f).sp = s.sp := rfl
@[simp] theorem xpc_onDevice (s : State) (d : DevCode) (f : Device → Device) : (s.onDevice d f).xpc = s.xpc := rfl
@[simp] theorem run_onDevice (s : State) (d : DevCode) (f : Device → Device) : (s.onDevice d f).run = s.run := rfl
@[simp] theorem parErr_onDevice (s : State) (d : DevCode) (f : Device → Device) : (s.onDevice d f).parErr = s.parErr := rfl
@[simp] theorem mem_onDevice (s : State) (d : DevCode) (f : Device → Device) : (s.onDevice d f).mem = s.mem := rfl
@[simp] theorem devices_onDevice (s : State) (d : DevCode) (f : Device → Device) : (s.onDevice d f).devices = s.devices.map fun x => if x.code == d then f x else x := rfl
@[simp] theorem ahead_onDevice (s : State) (d : DevCode) (f : Device → Device) : (s.onDevice d f).ahead = s.ahead := rfl
@[simp] theorem hung_onDevice (s : State) (d : DevCode) (f : Device → Device) : (s.onDevice d f).hung = s.hung := rfl
@[simp] theorem misread_onDevice (s : State) (d : DevCode) (f : Device → Device) : (s.onDevice d f).misread = s.misread := rfl
@[simp] theorem dchServed_onDevice (s : State) (d : DevCode) (f : Device → Device) : (s.onDevice d f).dchServed = s.dchServed := rfl
@[simp] theorem panels_onDevice (s : State) (d : DevCode) (f : Device → Device) : (s.onDevice d f).panels = s.panels := rfl
@[simp] theorem cfg_onDevice (s : State) (d : DevCode) (f : Device → Device) : (s.onDevice d f).cfg = s.cfg := rfl
@[simp] theorem inputs_onDevice (s : State) (d : DevCode) (f : Device → Device) : (s.onDevice d f).inputs = s.inputs := rfl
@[simp] theorem ioTrace_onDevice (s : State) (d : DevCode) (f : Device → Device) : (s.onDevice d f).ioTrace = s.ioTrace := rfl
@[simp] theorem draws_onDevice (s : State) (d : DevCode) (f : Device → Device) : (s.onDevice d f).draws = s.draws := rfl
@[simp] theorem ac_onDevice (s : State) (d : DevCode) (f : Device → Device) (k : Ac) : (s.onDevice d f).ac k = s.ac k := by cases k <;> rfl

/-! ### State.maskOut -/

@[simp] theorem a0_maskOut (s : State) (w : Word) : (s.maskOut w).a0 = s.a0 := rfl
@[simp] theorem a1_maskOut (s : State) (w : Word) : (s.maskOut w).a1 = s.a1 := rfl
@[simp] theorem a2_maskOut (s : State) (w : Word) : (s.maskOut w).a2 = s.a2 := rfl
@[simp] theorem a3_maskOut (s : State) (w : Word) : (s.maskOut w).a3 = s.a3 := rfl
@[simp] theorem c_maskOut (s : State) (w : Word) : (s.maskOut w).c = s.c := rfl
@[simp] theorem pc_maskOut (s : State) (w : Word) : (s.maskOut w).pc = s.pc := rfl
@[simp] theorem ion_maskOut (s : State) (w : Word) : (s.maskOut w).ion = s.ion := rfl
@[simp] theorem ionPending_maskOut (s : State) (w : Word) : (s.maskOut w).ionPending = s.ionPending := rfl
@[simp] theorem mode64k_maskOut (s : State) (w : Word) : (s.maskOut w).mode64k = s.mode64k := rfl
@[simp] theorem eis_maskOut (s : State) (w : Word) : (s.maskOut w).eis = s.eis := rfl
@[simp] theorem pwrFail_maskOut (s : State) (w : Word) : (s.maskOut w).pwrFail = s.pwrFail := rfl
@[simp] theorem sp_maskOut (s : State) (w : Word) : (s.maskOut w).sp = s.sp := rfl
@[simp] theorem xpc_maskOut (s : State) (w : Word) : (s.maskOut w).xpc = s.xpc := rfl
@[simp] theorem run_maskOut (s : State) (w : Word) : (s.maskOut w).run = s.run := rfl
@[simp] theorem parErr_maskOut (s : State) (w : Word) : (s.maskOut w).parErr = s.parErr := rfl
@[simp] theorem mem_maskOut (s : State) (w : Word) : (s.maskOut w).mem = s.mem := rfl
@[simp] theorem devices_maskOut (s : State) (w : Word) : (s.maskOut w).devices = s.devices.map fun d => d.masked w := rfl
@[simp] theorem ahead_maskOut (s : State) (w : Word) : (s.maskOut w).ahead = s.ahead := rfl
@[simp] theorem hung_maskOut (s : State) (w : Word) : (s.maskOut w).hung = s.hung := rfl
@[simp] theorem misread_maskOut (s : State) (w : Word) : (s.maskOut w).misread = s.misread := rfl
@[simp] theorem dchServed_maskOut (s : State) (w : Word) : (s.maskOut w).dchServed = s.dchServed := rfl
@[simp] theorem panels_maskOut (s : State) (w : Word) : (s.maskOut w).panels = s.panels := rfl
@[simp] theorem cfg_maskOut (s : State) (w : Word) : (s.maskOut w).cfg = s.cfg := rfl
@[simp] theorem inputs_maskOut (s : State) (w : Word) : (s.maskOut w).inputs = s.inputs := rfl
@[simp] theorem ioTrace_maskOut (s : State) (w : Word) : (s.maskOut w).ioTrace = s.ioTrace := rfl
@[simp] theorem draws_maskOut (s : State) (w : Word) : (s.maskOut w).draws = s.draws := rfl
@[simp] theorem ac_maskOut (s : State) (w : Word) (k : Ac) : (s.maskOut w).ac k = s.ac k := by cases k <;> rfl

/-! ### State.ioReset -/

@[simp] theorem a0_ioReset (s : State)  : (s.ioReset).a0 = s.a0 := rfl
@[simp] theorem a1_ioReset (s : State)  : (s.ioReset).a1 = s.a1 := rfl
@[simp] theorem a2_ioReset (s : State)  : (s.ioReset).a2 = s.a2 := rfl
@[simp] theorem a3_ioReset (s : State)  : (s.ioReset).a3 = s.a3 := rfl
@[simp] theorem c_ioReset (s : State)  : (s.ioReset).c = s.c := rfl
@[simp] theorem pc_ioReset (s : State)  : (s.ioReset).pc = s.pc := rfl
@[simp] theorem ion_ioReset (s : State)  : (s.ioReset).ion = s.ion := rfl
@[simp] theorem ionPending_ioReset (s : State)  : (s.ioReset).ionPending = s.ionPending := rfl
@[simp] theorem mode64k_ioReset (s : State)  : (s.ioReset).mode64k = false := rfl
@[simp] theorem eis_ioReset (s : State)  : (s.ioReset).eis = false := rfl
@[simp] theorem pwrFail_ioReset (s : State)  : (s.ioReset).pwrFail = s.pwrFail := rfl
@[simp] theorem sp_ioReset (s : State)  : (s.ioReset).sp = s.sp := rfl
@[simp] theorem xpc_ioReset (s : State)  : (s.ioReset).xpc = s.xpc := rfl
@[simp] theorem run_ioReset (s : State)  : (s.ioReset).run = s.run := rfl
@[simp] theorem parErr_ioReset (s : State)  : (s.ioReset).parErr = s.parErr := rfl
@[simp] theorem mem_ioReset (s : State)  : (s.ioReset).mem = s.mem := rfl
@[simp] theorem devices_ioReset (s : State)  : (s.ioReset).devices = resetDevices s.draws s.devices := rfl
@[simp] theorem ahead_ioReset (s : State)  : (s.ioReset).ahead = s.ahead := rfl
@[simp] theorem hung_ioReset (s : State)  : (s.ioReset).hung = s.hung := rfl
@[simp] theorem misread_ioReset (s : State)  : (s.ioReset).misread = s.misread := rfl
@[simp] theorem dchServed_ioReset (s : State)  : (s.ioReset).dchServed = s.dchServed := rfl
@[simp] theorem panels_ioReset (s : State)  : (s.ioReset).panels = s.panels := rfl
@[simp] theorem cfg_ioReset (s : State)  : (s.ioReset).cfg = s.cfg := rfl
@[simp] theorem inputs_ioReset (s : State)  : (s.ioReset).inputs = s.inputs := rfl
@[simp] theorem ioTrace_ioReset (s : State)  : (s.ioReset).ioTrace = s.ioTrace := rfl
@[simp] theorem draws_ioReset (s : State)  : (s.ioReset).draws = s.draws + 6 * s.devices.length := rfl
@[simp] theorem ac_ioReset (s : State)  (k : Ac) : (s.ioReset).ac k = s.ac k := by cases k <;> rfl

/-! ### State.proceeds -/

@[simp] theorem a0_proceeds (s : State)  : (s.proceeds).a0 = s.a0 := rfl
@[simp] theorem a1_proceeds (s : State)  : (s.proceeds).a1 = s.a1 := rfl
@[simp] theorem a2_proceeds (s : State)  : (s.proceeds).a2 = s.a2 := rfl
@[simp] theorem a3_proceeds (s : State)  : (s.proceeds).a3 = s.a3 := rfl
@[simp] theorem c_proceeds (s : State)  : (s.proceeds).c = s.c := rfl
@[simp] theorem pc_proceeds (s : State)  : (s.proceeds).pc = s.pc := rfl
@[simp] theorem ion_proceeds (s : State)  : (s.proceeds).ion = s.ion := rfl
@[simp] theorem ionPending_proceeds (s : State)  : (s.proceeds).ionPending = s.ionPending := rfl
@[simp] theorem mode64k_proceeds (s : State)  : (s.proceeds).mode64k = s.mode64k := rfl
@[simp] theorem eis_proceeds (s : State)  : (s.proceeds).eis = s.eis := rfl
@[simp] theorem pwrFail_proceeds (s : State)  : (s.proceeds).pwrFail = s.pwrFail := rfl
@[simp] theorem sp_proceeds (s : State)  : (s.proceeds).sp = s.sp := rfl
@[simp] theorem xpc_proceeds (s : State)  : (s.proceeds).xpc = s.xpc := rfl
@[simp] theorem run_proceeds (s : State)  : (s.proceeds).run = s.run := rfl
@[simp] theorem parErr_proceeds (s : State)  : (s.proceeds).parErr = s.parErr := rfl
@[simp] theorem mem_proceeds (s : State)  : (s.proceeds).mem = s.mem := rfl
@[simp] theorem devices_proceeds (s : State)  : (s.proceeds).devices = s.devices := rfl
@[simp] theorem ahead_proceeds (s : State)  : (s.proceeds).ahead = s.ahead := rfl
@[simp] theorem hung_proceeds (s : State)  : (s.proceeds).hung = s.hung := rfl
@[simp] theorem misread_proceeds (s : State)  : (s.proceeds).misread = s.misread := rfl
@[simp] theorem dchServed_proceeds (s : State)  : (s.proceeds).dchServed = false := rfl
@[simp] theorem panels_proceeds (s : State)  : (s.proceeds).panels = s.panels := rfl
@[simp] theorem cfg_proceeds (s : State)  : (s.proceeds).cfg = s.cfg := rfl
@[simp] theorem inputs_proceeds (s : State)  : (s.proceeds).inputs = s.inputs := rfl
@[simp] theorem ioTrace_proceeds (s : State)  : (s.proceeds).ioTrace = s.ioTrace := rfl
@[simp] theorem draws_proceeds (s : State)  : (s.proceeds).draws = s.draws := rfl
@[simp] theorem ac_proceeds (s : State)  (k : Ac) : (s.proceeds).ac k = s.ac k := by cases k <;> rfl

/-! ### State.rereads -/

@[simp] theorem a0_rereads (s : State)  : (s.rereads).a0 = s.a0 := rfl
@[simp] theorem a1_rereads (s : State)  : (s.rereads).a1 = s.a1 := rfl
@[simp] theorem a2_rereads (s : State)  : (s.rereads).a2 = s.a2 := rfl
@[simp] theorem a3_rereads (s : State)  : (s.rereads).a3 = s.a3 := rfl
@[simp] theorem c_rereads (s : State)  : (s.rereads).c = s.c := rfl
@[simp] theorem pc_rereads (s : State)  : (s.rereads).pc = s.pc := rfl
@[simp] theorem ion_rereads (s : State)  : (s.rereads).ion = s.ion := rfl
@[simp] theorem ionPending_rereads (s : State)  : (s.rereads).ionPending = s.ionPending := rfl
@[simp] theorem mode64k_rereads (s : State)  : (s.rereads).mode64k = s.mode64k := rfl
@[simp] theorem eis_rereads (s : State)  : (s.rereads).eis = s.eis := rfl
@[simp] theorem pwrFail_rereads (s : State)  : (s.rereads).pwrFail = s.pwrFail := rfl
@[simp] theorem sp_rereads (s : State)  : (s.rereads).sp = s.sp := rfl
@[simp] theorem xpc_rereads (s : State)  : (s.rereads).xpc = s.xpc := rfl
@[simp] theorem run_rereads (s : State)  : (s.rereads).run = s.run := rfl
@[simp] theorem parErr_rereads (s : State)  : (s.rereads).parErr = s.parErr := rfl
@[simp] theorem mem_rereads (s : State)  : (s.rereads).mem = s.mem := rfl
@[simp] theorem devices_rereads (s : State)  : (s.rereads).devices = s.devices := rfl
@[simp] theorem ahead_rereads (s : State)  : (s.rereads).ahead = s.ahead := rfl
@[simp] theorem hung_rereads (s : State)  : (s.rereads).hung = s.hung := rfl
@[simp] theorem misread_rereads (s : State)  : (s.rereads).misread = none := rfl
@[simp] theorem dchServed_rereads (s : State)  : (s.rereads).dchServed = s.dchServed := rfl
@[simp] theorem panels_rereads (s : State)  : (s.rereads).panels = s.panels := rfl
@[simp] theorem cfg_rereads (s : State)  : (s.rereads).cfg = s.cfg := rfl
@[simp] theorem inputs_rereads (s : State)  : (s.rereads).inputs = s.inputs := rfl
@[simp] theorem ioTrace_rereads (s : State)  : (s.rereads).ioTrace = s.ioTrace := rfl
@[simp] theorem draws_rereads (s : State)  : (s.rereads).draws = s.draws := rfl
@[simp] theorem ac_rereads (s : State)  (k : Ac) : (s.rereads).ac k = s.ac k := by cases k <;> rfl

/-! ### State.setPc -/

@[simp] theorem a0_setPc (s : State) (a : Word) : (s.setPc a).a0 = s.a0 := rfl
@[simp] theorem a1_setPc (s : State) (a : Word) : (s.setPc a).a1 = s.a1 := rfl
@[simp] theorem a2_setPc (s : State) (a : Word) : (s.setPc a).a2 = s.a2 := rfl
@[simp] theorem a3_setPc (s : State) (a : Word) : (s.setPc a).a3 = s.a3 := rfl
@[simp] theorem c_setPc (s : State) (a : Word) : (s.setPc a).c = s.c := rfl
@[simp] theorem pc_setPc (s : State) (a : Word) : (s.setPc a).pc = a := rfl
@[simp] theorem ion_setPc (s : State) (a : Word) : (s.setPc a).ion = s.ion := rfl
@[simp] theorem ionPending_setPc (s : State) (a : Word) : (s.setPc a).ionPending = s.ionPending := rfl
@[simp] theorem mode64k_setPc (s : State) (a : Word) : (s.setPc a).mode64k = s.mode64k := rfl
@[simp] theorem eis_setPc (s : State) (a : Word) : (s.setPc a).eis = s.eis := rfl
@[simp] theorem pwrFail_setPc (s : State) (a : Word) : (s.setPc a).pwrFail = s.pwrFail := rfl
@[simp] theorem sp_setPc (s : State) (a : Word) : (s.setPc a).sp = s.sp := rfl
@[simp] theorem xpc_setPc (s : State) (a : Word) : (s.setPc a).xpc = s.xpc := rfl
@[simp] theorem run_setPc (s : State) (a : Word) : (s.setPc a).run = s.run := rfl
@[simp] theorem parErr_setPc (s : State) (a : Word) : (s.setPc a).parErr = s.parErr := rfl
@[simp] theorem mem_setPc (s : State) (a : Word) : (s.setPc a).mem = s.mem := rfl
@[simp] theorem devices_setPc (s : State) (a : Word) : (s.setPc a).devices = s.devices := rfl
@[simp] theorem ahead_setPc (s : State) (a : Word) : (s.setPc a).ahead = none := rfl
@[simp] theorem hung_setPc (s : State) (a : Word) : (s.setPc a).hung = s.hung := rfl
@[simp] theorem misread_setPc (s : State) (a : Word) : (s.setPc a).misread = none := rfl
@[simp] theorem dchServed_setPc (s : State) (a : Word) : (s.setPc a).dchServed = s.dchServed := rfl
@[simp] theorem panels_setPc (s : State) (a : Word) : (s.setPc a).panels = s.panels := rfl
@[simp] theorem cfg_setPc (s : State) (a : Word) : (s.setPc a).cfg = s.cfg := rfl
@[simp] theorem inputs_setPc (s : State) (a : Word) : (s.setPc a).inputs = s.inputs := rfl
@[simp] theorem ioTrace_setPc (s : State) (a : Word) : (s.setPc a).ioTrace = s.ioTrace := rfl
@[simp] theorem draws_setPc (s : State) (a : Word) : (s.setPc a).draws = s.draws := rfl
@[simp] theorem ac_setPc (s : State) (a : Word) (k : Ac) : (s.setPc a).ac k = s.ac k := by cases k <;> rfl

/-! ### State.parityHalt -/

@[simp] theorem a0_parityHalt (s : State)  : (s.parityHalt).a0 = s.a0 := rfl
@[simp] theorem a1_parityHalt (s : State)  : (s.parityHalt).a1 = s.a1 := rfl
@[simp] theorem a2_parityHalt (s : State)  : (s.parityHalt).a2 = s.a2 := rfl
@[simp] theorem a3_parityHalt (s : State)  : (s.parityHalt).a3 = s.a3 := rfl
@[simp] theorem c_parityHalt (s : State)  : (s.parityHalt).c = s.c := rfl
@[simp] theorem pc_parityHalt (s : State)  : (s.parityHalt).pc = s.pc := rfl
@[simp] theorem ion_parityHalt (s : State)  : (s.parityHalt).ion = s.ion := rfl
@[simp] theorem ionPending_parityHalt (s : State)  : (s.parityHalt).ionPending = s.ionPending := rfl
@[simp] theorem mode64k_parityHalt (s : State)  : (s.parityHalt).mode64k = s.mode64k := rfl
@[simp] theorem eis_parityHalt (s : State)  : (s.parityHalt).eis = s.eis := rfl
@[simp] theorem pwrFail_parityHalt (s : State)  : (s.parityHalt).pwrFail = s.pwrFail := rfl
@[simp] theorem sp_parityHalt (s : State)  : (s.parityHalt).sp = s.sp := rfl
@[simp] theorem xpc_parityHalt (s : State)  : (s.parityHalt).xpc = s.xpc := rfl
@[simp] theorem run_parityHalt (s : State)  : (s.parityHalt).run = false := rfl
@[simp] theorem parErr_parityHalt (s : State)  : (s.parityHalt).parErr = true := rfl
@[simp] theorem mem_parityHalt (s : State)  : (s.parityHalt).mem = s.mem := rfl
@[simp] theorem devices_parityHalt (s : State)  : (s.parityHalt).devices = s.devices := rfl
@[simp] theorem ahead_parityHalt (s : State)  : (s.parityHalt).ahead = s.ahead := rfl
@[simp] theorem hung_parityHalt (s : State)  : (s.parityHalt).hung = s.hung := rfl
@[simp] theorem misread_parityHalt (s : State)  : (s.parityHalt).misread = s.misread := rfl
@[simp] theorem dchServed_parityHalt (s : State)  : (s.parityHalt).dchServed = s.dchServed := rfl
@[simp] theorem cfg_parityHalt (s : State)  : (s.parityHalt).cfg = s.cfg := rfl
@[simp] theorem inputs_parityHalt (s : State)  : (s.parityHalt).inputs = s.inputs := rfl
@[simp] theorem ioTrace_parityHalt (s : State)  : (s.parityHalt).ioTrace = s.ioTrace := rfl
@[simp] theorem draws_parityHalt (s : State)  : (s.parityHalt).draws = s.draws := rfl
@[simp] theorem ac_parityHalt (s : State)  (k : Ac) : (s.parityHalt).ac k = s.ac k := by cases k <;> rfl

/-! ### State.parityAt -/

@[simp] theorem a0_parityAt (s : State) (a : Word) : (s.parityAt a).a0 = s.a0 := rfl
@[simp] theorem a1_parityAt (s : State) (a : Word) : (s.parityAt a).a1 = s.a1 := rfl
@[simp] theorem a2_parityAt (s : State) (a : Word) : (s.parityAt a).a2 = s.a2 := rfl
@[simp] theorem a3_parityAt (s : State) (a : Word) : (s.parityAt a).a3 = s.a3 := rfl
@[simp] theorem c_parityAt (s : State) (a : Word) : (s.parityAt a).c = s.c := rfl
@[simp] theorem pc_parityAt (s : State) (a : Word) : (s.parityAt a).pc = s.pc := rfl
@[simp] theorem ion_parityAt (s : State) (a : Word) : (s.parityAt a).ion = s.ion := rfl
@[simp] theorem ionPending_parityAt (s : State) (a : Word) : (s.parityAt a).ionPending = s.ionPending := rfl
@[simp] theorem mode64k_parityAt (s : State) (a : Word) : (s.parityAt a).mode64k = s.mode64k := rfl
@[simp] theorem eis_parityAt (s : State) (a : Word) : (s.parityAt a).eis = s.eis := rfl
@[simp] theorem pwrFail_parityAt (s : State) (a : Word) : (s.parityAt a).pwrFail = s.pwrFail := rfl
@[simp] theorem sp_parityAt (s : State) (a : Word) : (s.parityAt a).sp = s.sp := rfl
@[simp] theorem xpc_parityAt (s : State) (a : Word) : (s.parityAt a).xpc = s.xpc := rfl
@[simp] theorem run_parityAt (s : State) (a : Word) : (s.parityAt a).run = false := rfl
@[simp] theorem parErr_parityAt (s : State) (a : Word) : (s.parityAt a).parErr = true := rfl
@[simp] theorem mem_parityAt (s : State) (a : Word) : (s.parityAt a).mem = s.mem := rfl
@[simp] theorem devices_parityAt (s : State) (a : Word) : (s.parityAt a).devices = s.devices := rfl
@[simp] theorem ahead_parityAt (s : State) (a : Word) : (s.parityAt a).ahead = s.ahead := rfl
@[simp] theorem hung_parityAt (s : State) (a : Word) : (s.parityAt a).hung = s.hung := rfl
@[simp] theorem misread_parityAt (s : State) (a : Word) : (s.parityAt a).misread = some (s.phys a, s.freeWord) := rfl
@[simp] theorem dchServed_parityAt (s : State) (a : Word) : (s.parityAt a).dchServed = s.dchServed := rfl
@[simp] theorem cfg_parityAt (s : State) (a : Word) : (s.parityAt a).cfg = s.cfg := rfl
@[simp] theorem inputs_parityAt (s : State) (a : Word) : (s.parityAt a).inputs = s.inputs := rfl
@[simp] theorem ioTrace_parityAt (s : State) (a : Word) : (s.parityAt a).ioTrace = s.ioTrace := rfl
@[simp] theorem draws_parityAt (s : State) (a : Word) : (s.parityAt a).draws = s.draws + 1 := rfl
@[simp] theorem ac_parityAt (s : State) (a : Word) (k : Ac) : (s.parityAt a).ac k = s.ac k := by cases k <;> rfl

/-! ### State.goesOn -/

@[simp] theorem a0_goesOn (s : State) (e : Endless) : (s.goesOn e).a0 = s.a0 := rfl
@[simp] theorem a1_goesOn (s : State) (e : Endless) : (s.goesOn e).a1 = s.a1 := rfl
@[simp] theorem a2_goesOn (s : State) (e : Endless) : (s.goesOn e).a2 = s.a2 := rfl
@[simp] theorem a3_goesOn (s : State) (e : Endless) : (s.goesOn e).a3 = s.a3 := rfl
@[simp] theorem c_goesOn (s : State) (e : Endless) : (s.goesOn e).c = s.c := rfl
@[simp] theorem pc_goesOn (s : State) (e : Endless) : (s.goesOn e).pc = s.pc := rfl
@[simp] theorem ion_goesOn (s : State) (e : Endless) : (s.goesOn e).ion = s.ion := rfl
@[simp] theorem ionPending_goesOn (s : State) (e : Endless) : (s.goesOn e).ionPending = s.ionPending := rfl
@[simp] theorem mode64k_goesOn (s : State) (e : Endless) : (s.goesOn e).mode64k = s.mode64k := rfl
@[simp] theorem eis_goesOn (s : State) (e : Endless) : (s.goesOn e).eis = s.eis := rfl
@[simp] theorem pwrFail_goesOn (s : State) (e : Endless) : (s.goesOn e).pwrFail = s.pwrFail := rfl
@[simp] theorem sp_goesOn (s : State) (e : Endless) : (s.goesOn e).sp = s.sp := rfl
@[simp] theorem xpc_goesOn (s : State) (e : Endless) : (s.goesOn e).xpc = s.xpc := rfl
@[simp] theorem run_goesOn (s : State) (e : Endless) : (s.goesOn e).run = s.run := rfl
@[simp] theorem parErr_goesOn (s : State) (e : Endless) : (s.goesOn e).parErr = s.parErr := rfl
@[simp] theorem mem_goesOn (s : State) (e : Endless) : (s.goesOn e).mem = s.mem := rfl
@[simp] theorem devices_goesOn (s : State) (e : Endless) : (s.goesOn e).devices = s.devices := rfl
@[simp] theorem ahead_goesOn (s : State) (e : Endless) : (s.goesOn e).ahead = s.ahead := rfl
@[simp] theorem hung_goesOn (s : State) (e : Endless) : (s.goesOn e).hung = some { what := e, traced := false, stepping := false } := rfl
@[simp] theorem misread_goesOn (s : State) (e : Endless) : (s.goesOn e).misread = s.misread := rfl
@[simp] theorem dchServed_goesOn (s : State) (e : Endless) : (s.goesOn e).dchServed = s.dchServed := rfl
@[simp] theorem panels_goesOn (s : State) (e : Endless) : (s.goesOn e).panels = s.panels := rfl
@[simp] theorem cfg_goesOn (s : State) (e : Endless) : (s.goesOn e).cfg = s.cfg := rfl
@[simp] theorem inputs_goesOn (s : State) (e : Endless) : (s.goesOn e).inputs = s.inputs := rfl
@[simp] theorem ioTrace_goesOn (s : State) (e : Endless) : (s.goesOn e).ioTrace = s.ioTrace := rfl
@[simp] theorem draws_goesOn (s : State) (e : Endless) : (s.goesOn e).draws = s.draws := rfl
@[simp] theorem ac_goesOn (s : State) (e : Endless) (k : Ac) : (s.goesOn e).ac k = s.ac k := by cases k <;> rfl

/-! ### State.traceStart -/

@[simp] theorem a0_traceStart (s : State) (a : Word) : (s.traceStart a).a0 = s.a0 := rfl
@[simp] theorem a1_traceStart (s : State) (a : Word) : (s.traceStart a).a1 = s.a1 := rfl
@[simp] theorem a2_traceStart (s : State) (a : Word) : (s.traceStart a).a2 = s.a2 := rfl
@[simp] theorem a3_traceStart (s : State) (a : Word) : (s.traceStart a).a3 = s.a3 := rfl
@[simp] theorem c_traceStart (s : State) (a : Word) : (s.traceStart a).c = s.c := rfl
@[simp] theorem pc_traceStart (s : State) (a : Word) : (s.traceStart a).pc = a := rfl
@[simp] theorem ion_traceStart (s : State) (a : Word) : (s.traceStart a).ion = s.ion := rfl
@[simp] theorem ionPending_traceStart (s : State) (a : Word) : (s.traceStart a).ionPending = s.ionPending := rfl
@[simp] theorem mode64k_traceStart (s : State) (a : Word) : (s.traceStart a).mode64k = s.mode64k := rfl
@[simp] theorem eis_traceStart (s : State) (a : Word) : (s.traceStart a).eis = s.eis := rfl
@[simp] theorem pwrFail_traceStart (s : State) (a : Word) : (s.traceStart a).pwrFail = s.pwrFail := rfl
@[simp] theorem sp_traceStart (s : State) (a : Word) : (s.traceStart a).sp = s.sp := rfl
@[simp] theorem xpc_traceStart (s : State) (a : Word) : (s.traceStart a).xpc = s.pc + 1 := rfl
@[simp] theorem run_traceStart (s : State) (a : Word) : (s.traceStart a).run = s.run := rfl
@[simp] theorem parErr_traceStart (s : State) (a : Word) : (s.traceStart a).parErr = s.parErr := rfl
@[simp] theorem mem_traceStart (s : State) (a : Word) : (s.traceStart a).mem = s.mem := rfl
@[simp] theorem devices_traceStart (s : State) (a : Word) : (s.traceStart a).devices = s.devices := rfl
@[simp] theorem ahead_traceStart (s : State) (a : Word) : (s.traceStart a).ahead = s.ahead := rfl
@[simp] theorem hung_traceStart (s : State) (a : Word) : (s.traceStart a).hung = s.hung := rfl
@[simp] theorem misread_traceStart (s : State) (a : Word) : (s.traceStart a).misread = s.misread := rfl
@[simp] theorem dchServed_traceStart (s : State) (a : Word) : (s.traceStart a).dchServed = s.dchServed := rfl
@[simp] theorem panels_traceStart (s : State) (a : Word) : (s.traceStart a).panels = s.panels := rfl
@[simp] theorem cfg_traceStart (s : State) (a : Word) : (s.traceStart a).cfg = s.cfg := rfl
@[simp] theorem inputs_traceStart (s : State) (a : Word) : (s.traceStart a).inputs = s.inputs := rfl
@[simp] theorem ioTrace_traceStart (s : State) (a : Word) : (s.traceStart a).ioTrace = s.ioTrace := rfl
@[simp] theorem draws_traceStart (s : State) (a : Word) : (s.traceStart a).draws = s.draws := rfl
@[simp] theorem ac_traceStart (s : State) (a : Word) (k : Ac) : (s.traceStart a).ac k = s.ac k := by cases k <;> rfl

/-! ### State.traceEnd -/

@[simp] theorem a0_traceEnd (s : State)  : (s.traceEnd).a0 = s.a0 := rfl
@[simp] theorem a1_traceEnd (s : State)  : (s.traceEnd).a1 = s.a1 := rfl
@[simp] theorem a2_traceEnd (s : State)  : (s.traceEnd).a2 = s.a2 := rfl
@[simp] theorem a3_traceEnd (s : State)  : (s.traceEnd).a3 = s.a3 := rfl
@[simp] theorem c_traceEnd (s : State)  : (s.traceEnd).c = s.c := rfl
@[simp] theorem pc_traceEnd (s : State)  : (s.traceEnd).pc = s.xpc + 1 := rfl
@[simp] theorem ion_traceEnd (s : State)  : (s.traceEnd).ion = s.ion := rfl
@[simp] theorem ionPending_traceEnd (s : State)  : (s.traceEnd).ionPending = s.ionPending := rfl
@[simp] theorem mode64k_traceEnd (s : State)  : (s.traceEnd).mode64k = s.mode64k := rfl
@[simp] theorem eis_traceEnd (s : State)  : (s.traceEnd).eis = s.eis := rfl
@[simp] theorem pwrFail_traceEnd (s : State)  : (s.traceEnd).pwrFail = s.pwrFail := rfl
@[simp] theorem sp_traceEnd (s : State)  : (s.traceEnd).sp = s.sp := rfl
@[simp] theorem xpc_traceEnd (s : State)  : (s.traceEnd).xpc = s.xpc := rfl
@[simp] theorem run_traceEnd (s : State)  : (s.traceEnd).run = s.run := rfl
@[simp] theorem parErr_traceEnd (s : State)  : (s.traceEnd).parErr = s.parErr := rfl
@[simp] theorem mem_traceEnd (s : State)  : (s.traceEnd).mem = setWord s.mem (s.phys s.xpc) s.pc := rfl
@[simp] theorem devices_traceEnd (s : State)  : (s.traceEnd).devices = s.devices := rfl
@[simp] theorem ahead_traceEnd (s : State)  : (s.traceEnd).ahead = s.ahead := rfl
@[simp] theorem hung_traceEnd (s : State)  : (s.traceEnd).hung = s.hung := rfl
@[simp] theorem misread_traceEnd (s : State)  : (s.traceEnd).misread = s.misread.filter fun m => m.1 != s.phys s.xpc := rfl
@[simp] theorem dchServed_traceEnd (s : State)  : (s.traceEnd).dchServed = s.dchServed := rfl
@[simp] theorem panels_traceEnd (s : State)  : (s.traceEnd).panels = s.panels := rfl
@[simp] theorem cfg_traceEnd (s : State)  : (s.traceEnd).cfg = s.cfg := rfl
@[simp] theorem inputs_traceEnd (s : State)  : (s.traceEnd).inputs = s.inputs := rfl
@[simp] theorem ioTrace_traceEnd (s : State)  : (s.traceEnd).ioTrace = s.ioTrace := rfl
@[simp] theorem draws_traceEnd (s : State)  : (s.traceEnd).draws = s.draws := rfl
@[simp] theorem ac_traceEnd (s : State)  (k : Ac) : (s.traceEnd).ac k = s.ac k := by cases k <;> rfl

/-! ### State.pushed -/

@[simp] theorem a0_pushed (s : State) (v : Word) : (s.pushed v).a0 = s.a0 := rfl
@[simp] theorem a1_pushed (s : State) (v : Word) : (s.pushed v).a1 = s.a1 := rfl
@[simp] theorem a2_pushed (s : State) (v : Word) : (s.pushed v).a2 = s.a2 := rfl
@[simp] theorem a3_pushed (s : State) (v : Word) : (s.pushed v).a3 = s.a3 := rfl
@[simp] theorem c_pushed (s : State) (v : Word) : (s.pushed v).c = s.c := rfl
@[simp] theorem pc_pushed (s : State) (v : Word) : (s.pushed v).pc = s.pc := rfl
@[simp] theorem ion_pushed (s : State) (v : Word) : (s.pushed v).ion = s.ion := rfl
@[simp] theorem ionPending_pushed (s : State) (v : Word) : (s.pushed v).ionPending = s.ionPending := rfl
@[simp] theorem mode64k_pushed (s : State) (v : Word) : (s.pushed v).mode64k = s.mode64k := rfl
@[simp] theorem eis_pushed (s : State) (v : Word) : (s.pushed v).eis = s.eis := rfl
@[simp] theorem pwrFail_pushed (s : State) (v : Word) : (s.pushed v).pwrFail = s.pwrFail := rfl
@[simp] theorem sp_pushed (s : State) (v : Word) : (s.pushed v).sp = s.sp - 1 := rfl
@[simp] theorem xpc_pushed (s : State) (v : Word) : (s.pushed v).xpc = s.xpc := rfl
@[simp] theorem run_pushed (s : State) (v : Word) : (s.pushed v).run = s.run := rfl
@[simp] theorem parErr_pushed (s : State) (v : Word) : (s.pushed v).parErr = s.parErr := rfl
@[simp] theorem mem_pushed (s : State) (v : Word) : (s.pushed v).mem = setWord s.mem (s.phys (s.sp - 1)) v := rfl
@[simp] theorem devices_pushed (s : State) (v : Word) : (s.pushed v).devices = s.devices := rfl
@[simp] theorem ahead_pushed (s : State) (v : Word) : (s.pushed v).ahead = s.ahead := rfl
@[simp] theorem hung_pushed (s : State) (v : Word) : (s.pushed v).hung = s.hung := rfl
@[simp] theorem misread_pushed (s : State) (v : Word) : (s.pushed v).misread = s.misread.filter fun m => m.1 != s.phys (s.sp - 1) := rfl
@[simp] theorem dchServed_pushed (s : State) (v : Word) : (s.pushed v).dchServed = s.dchServed := rfl
@[simp] theorem panels_pushed (s : State) (v : Word) : (s.pushed v).panels = s.panels := rfl
@[simp] theorem cfg_pushed (s : State) (v : Word) : (s.pushed v).cfg = s.cfg := rfl
@[simp] theorem inputs_pushed (s : State) (v : Word) : (s.pushed v).inputs = s.inputs := rfl
@[simp] theorem ioTrace_pushed (s : State) (v : Word) : (s.pushed v).ioTrace = s.ioTrace := rfl
@[simp] theorem draws_pushed (s : State) (v : Word) : (s.pushed v).draws = s.draws := rfl
@[simp] theorem ac_pushed (s : State) (v : Word) (k : Ac) : (s.pushed v).ac k = s.ac k := by cases k <;> rfl

/-! ### State.level -/

@[simp] theorem a0_level (s : State) (ea : Word) : (s.level ea).a0 = s.a0 := by unfold State.level; split <;> rfl
@[simp] theorem a1_level (s : State) (ea : Word) : (s.level ea).a1 = s.a1 := by unfold State.level; split <;> rfl
@[simp] theorem a2_level (s : State) (ea : Word) : (s.level ea).a2 = s.a2 := by unfold State.level; split <;> rfl
@[simp] theorem a3_level (s : State) (ea : Word) : (s.level ea).a3 = s.a3 := by unfold State.level; split <;> rfl
@[simp] theorem c_level (s : State) (ea : Word) : (s.level ea).c = s.c := by unfold State.level; split <;> rfl
@[simp] theorem pc_level (s : State) (ea : Word) : (s.level ea).pc = s.pc := by unfold State.level; split <;> rfl
@[simp] theorem ion_level (s : State) (ea : Word) : (s.level ea).ion = s.ion := by unfold State.level; split <;> rfl
@[simp] theorem ionPending_level (s : State) (ea : Word) : (s.level ea).ionPending = s.ionPending := by unfold State.level; split <;> rfl
@[simp] theorem mode64k_level (s : State) (ea : Word) : (s.level ea).mode64k = s.mode64k := by unfold State.level; split <;> rfl
@[simp] theorem eis_level (s : State) (ea : Word) : (s.level ea).eis = s.eis := by unfold State.level; split <;> rfl
@[simp] theorem pwrFail_level (s : State) (ea : Word) : (s.level ea).pwrFail = s.pwrFail := by unfold State.level; split <;> rfl
@[simp] theorem sp_level (s : State) (ea : Word) : (s.level ea).sp = s.sp := by unfold State.level; split <;> rfl
@[simp] theorem xpc_level (s : State) (ea : Word) : (s.level ea).xpc = s.xpc := by unfold State.level; split <;> rfl
@[simp] theorem run_level (s : State) (ea : Word) : (s.level ea).run = s.run := by unfold State.level; split <;> rfl
@[simp] theorem parErr_level (s : State) (ea : Word) : (s.level ea).parErr = s.parErr := by unfold State.level; split <;> rfl
@[simp] theorem devices_level (s : State) (ea : Word) : (s.level ea).devices = s.devices := by unfold State.level; split <;> rfl
@[simp] theorem ahead_level (s : State) (ea : Word) : (s.level ea).ahead = s.ahead := by unfold State.level; split <;> rfl
@[simp] theorem hung_level (s : State) (ea : Word) : (s.level ea).hung = s.hung := by unfold State.level; split <;> rfl
@[simp] theorem dchServed_level (s : State) (ea : Word) : (s.level ea).dchServed = s.dchServed := by unfold State.level; split <;> rfl
@[simp] theorem panels_level (s : State) (ea : Word) : (s.level ea).panels = s.panels := by unfold State.level; split <;> rfl
@[simp] theorem cfg_level (s : State) (ea : Word) : (s.level ea).cfg = s.cfg := by unfold State.level; split <;> rfl
@[simp] theorem inputs_level (s : State) (ea : Word) : (s.level ea).inputs = s.inputs := by unfold State.level; split <;> rfl
@[simp] theorem ioTrace_level (s : State) (ea : Word) : (s.level ea).ioTrace = s.ioTrace := by unfold State.level; split <;> rfl
@[simp] theorem draws_level (s : State) (ea : Word) : (s.level ea).draws = s.draws := by unfold State.level; split <;> rfl
@[simp] theorem ac_level (s : State) (ea : Word) (k : Ac) : (s.level ea).ac k = s.ac k := by unfold State.level; split <;> cases k <;> rfl

/-! ### State.devPulse -/

@[simp] theorem a0_devPulse (s : State) (d : DevCode) (f : Ctrl) : (s.devPulse d f).a0 = s.a0 := rfl
@[simp] theorem a1_devPulse (s : State) (d : DevCode) (f : Ctrl) : (s.devPulse d f).a1 = s.a1 := rfl
@[simp] theorem a2_devPulse (s : State) (d : DevCode) (f : Ctrl) : (s.devPulse d f).a2 = s.a2 := rfl
@[simp] theorem a3_devPulse (s : State) (d : DevCode) (f : Ctrl) : (s.devPulse d f).a3 = s.a3 := rfl
@[simp] theorem c_devPulse (s : State) (d : DevCode) (f : Ctrl) : (s.devPulse d f).c = s.c := rfl
@[simp] theorem pc_devPulse (s : State) (d : DevCode) (f : Ctrl) : (s.devPulse d f).pc = s.pc := rfl
@[simp] theorem ion_devPulse (s : State) (d : DevCode) (f : Ctrl) : (s.devPulse d f).ion = s.ion := rfl
@[simp] theorem ionPending_devPulse (s : State) (d : DevCode) (f : Ctrl) : (s.devPulse d f).ionPending = s.ionPending := rfl
@[simp] theorem mode64k_devPulse (s : State) (d : DevCode) (f : Ctrl) : (s.devPulse d f).mode64k = s.mode64k := rfl
@[simp] theorem eis_devPulse (s : State) (d : DevCode) (f : Ctrl) : (s.devPulse d f).eis = s.eis := rfl
@[simp] theorem pwrFail_devPulse (s : State) (d : DevCode) (f : Ctrl) : (s.devPulse d f).pwrFail = s.pwrFail := rfl
@[simp] theorem sp_devPulse (s : State) (d : DevCode) (f : Ctrl) : (s.devPulse d f).sp = s.sp := rfl
@[simp] theorem xpc_devPulse (s : State) (d : DevCode) (f : Ctrl) : (s.devPulse d f).xpc = s.xpc := rfl
@[simp] theorem run_devPulse (s : State) (d : DevCode) (f : Ctrl) : (s.devPulse d f).run = s.run := rfl
@[simp] theorem parErr_devPulse (s : State) (d : DevCode) (f : Ctrl) : (s.devPulse d f).parErr = s.parErr := rfl
@[simp] theorem mem_devPulse (s : State) (d : DevCode) (f : Ctrl) : (s.devPulse d f).mem = s.mem := rfl
@[simp] theorem devices_devPulse (s : State) (d : DevCode) (f : Ctrl) : (s.devPulse d f).devices = s.devices.map fun x => if x.code == d then x.control f else x := rfl
@[simp] theorem ahead_devPulse (s : State) (d : DevCode) (f : Ctrl) : (s.devPulse d f).ahead = s.ahead := rfl
@[simp] theorem hung_devPulse (s : State) (d : DevCode) (f : Ctrl) : (s.devPulse d f).hung = s.hung := rfl
@[simp] theorem misread_devPulse (s : State) (d : DevCode) (f : Ctrl) : (s.devPulse d f).misread = s.misread := rfl
@[simp] theorem dchServed_devPulse (s : State) (d : DevCode) (f : Ctrl) : (s.devPulse d f).dchServed = s.dchServed := rfl
@[simp] theorem panels_devPulse (s : State) (d : DevCode) (f : Ctrl) : (s.devPulse d f).panels = s.panels := rfl
@[simp] theorem cfg_devPulse (s : State) (d : DevCode) (f : Ctrl) : (s.devPulse d f).cfg = s.cfg := rfl
@[simp] theorem inputs_devPulse (s : State) (d : DevCode) (f : Ctrl) : (s.devPulse d f).inputs = s.inputs := rfl
@[simp] theorem ioTrace_devPulse (s : State) (d : DevCode) (f : Ctrl) : (s.devPulse d f).ioTrace = s.ioTrace := rfl
@[simp] theorem draws_devPulse (s : State) (d : DevCode) (f : Ctrl) : (s.devPulse d f).draws = s.draws := rfl
@[simp] theorem ac_devPulse (s : State) (d : DevCode) (f : Ctrl) (k : Ac) : (s.devPulse d f).ac k = s.ac k := by cases k <;> rfl

/-! ### State.devOut -/

@[simp] theorem a0_devOut (s : State) (d : DevCode) (b : Buf) (v : Word) : (s.devOut d b v).a0 = s.a0 := rfl
@[simp] theorem a1_devOut (s : State) (d : DevCode) (b : Buf) (v : Word) : (s.devOut d b v).a1 = s.a1 := rfl
@[simp] theorem a2_devOut (s : State) (d : DevCode) (b : Buf) (v : Word) : (s.devOut d b v).a2 = s.a2 := rfl
@[simp] theorem a3_devOut (s : State) (d : DevCode) (b : Buf) (v : Word) : (s.devOut d b v).a3 = s.a3 := rfl
@[simp] theorem c_devOut (s : State) (d : DevCode) (b : Buf) (v : Word) : (s.devOut d b v).c = s.c := rfl
@[simp] theorem pc_devOut (s : State) (d : DevCode) (b : Buf) (v : Word) : (s.devOut d b v).pc = s.pc := rfl
@[simp] theorem ion_devOut (s : State) (d : DevCode) (b : Buf) (v : Word) : (s.devOut d b v).ion = s.ion := rfl
@[simp] theorem ionPending_devOut (s : State) (d : DevCode) (b : Buf) (v : Word) : (s.devOut d b v).ionPending = s.ionPending := rfl
@[simp] theorem mode64k_devOut (s : State) (d : DevCode) (b : Buf) (v : Word) : (s.devOut d b v).mode64k = s.mode64k := rfl
@[simp] theorem eis_devOut (s : State) (d : DevCode) (b : Buf) (v : Word) : (s.devOut d b v).eis = s.eis := rfl
@[simp] theorem pwrFail_devOut (s : State) (d : DevCode) (b : Buf) (v : Word) : (s.devOut d b v).pwrFail = s.pwrFail := rfl
@[simp] theorem sp_devOut (s : State) (d : DevCode) (b : Buf) (v : Word) : (s.devOut d b v).sp = s.sp := rfl
@[simp] theorem xpc_devOut (s : State) (d : DevCode) (b : Buf) (v : Word) : (s.devOut d b v).xpc = s.xpc := rfl
@[simp] theorem run_devOut (s : State) (d : DevCode) (b : Buf) (v : Word) : (s.devOut d b v).run = s.run := rfl
@[simp] theorem parErr_devOut (s : State) (d : DevCode) (b : Buf) (v : Word) : (s.devOut d b v).parErr = s.parErr := rfl
@[simp] theorem mem_devOut (s : State) (d : DevCode) (b : Buf) (v : Word) : (s.devOut d b v).mem = s.mem := rfl
@[simp] theorem devices_devOut (s : State) (d : DevCode) (b : Buf) (v : Word) : (s.devOut d b v).devices = s.devices.map fun x => if x.code == d then x.output b v else x := rfl
@[simp] theorem ahead_devOut (s : State) (d : DevCode) (b : Buf) (v : Word) : (s.devOut d b v).ahead = s.ahead := rfl
@[simp] theorem hung_devOut (s : State) (d : DevCode) (b : Buf) (v : Word) : (s.devOut d b v).hung = s.hung := rfl
@[simp] theorem misread_devOut (s : State) (d : DevCode) (b : Buf) (v : Word) : (s.devOut d b v).misread = s.misread := rfl
@[simp] theorem dchServed_devOut (s : State) (d : DevCode) (b : Buf) (v : Word) : (s.devOut d b v).dchServed = s.dchServed := rfl
@[simp] theorem panels_devOut (s : State) (d : DevCode) (b : Buf) (v : Word) : (s.devOut d b v).panels = s.panels := rfl
@[simp] theorem cfg_devOut (s : State) (d : DevCode) (b : Buf) (v : Word) : (s.devOut d b v).cfg = s.cfg := rfl
@[simp] theorem inputs_devOut (s : State) (d : DevCode) (b : Buf) (v : Word) : (s.devOut d b v).inputs = s.inputs := rfl
@[simp] theorem ioTrace_devOut (s : State) (d : DevCode) (b : Buf) (v : Word) : (s.devOut d b v).ioTrace = s.ioTrace := rfl
@[simp] theorem draws_devOut (s : State) (d : DevCode) (b : Buf) (v : Word) : (s.devOut d b v).draws = s.draws := rfl
@[simp] theorem ac_devOut (s : State) (d : DevCode) (b : Buf) (v : Word) (k : Ac) : (s.devOut d b v).ac k = s.ac k := by cases k <;> rfl

/-! ### State.devNio -/

@[simp] theorem a0_devNio (s : State) (f : Ctrl) (d : DevCode) : (s.devNio f d).a0 = s.a0 := rfl
@[simp] theorem a1_devNio (s : State) (f : Ctrl) (d : DevCode) : (s.devNio f d).a1 = s.a1 := rfl
@[simp] theorem a2_devNio (s : State) (f : Ctrl) (d : DevCode) : (s.devNio f d).a2 = s.a2 := rfl
@[simp] theorem a3_devNio (s : State) (f : Ctrl) (d : DevCode) : (s.devNio f d).a3 = s.a3 := rfl
@[simp] theorem c_devNio (s : State) (f : Ctrl) (d : DevCode) : (s.devNio f d).c = s.c := rfl
@[simp] theorem pc_devNio (s : State) (f : Ctrl) (d : DevCode) : (s.devNio f d).pc = s.pc := rfl
@[simp] theorem ion_devNio (s : State) (f : Ctrl) (d : DevCode) : (s.devNio f d).ion = s.ion := rfl
@[simp] theorem ionPending_devNio (s : State) (f : Ctrl) (d : DevCode) : (s.devNio f d).ionPending = s.ionPending := rfl
@[simp] theorem mode64k_devNio (s : State) (f : Ctrl) (d : DevCode) : (s.devNio f d).mode64k = s.mode64k := rfl
@[simp] theorem eis_devNio (s : State) (f : Ctrl) (d : DevCode) : (s.devNio f d).eis = s.eis := rfl
@[simp] theorem pwrFail_devNio (s : State) (f : Ctrl) (d : DevCode) : (s.devNio f d).pwrFail = s.pwrFail := rfl
@[simp] theorem sp_devNio (s : State) (f : Ctrl) (d : DevCode) : (s.devNio f d).sp = s.sp := rfl
@[simp] theorem xpc_devNio (s : State) (f : Ctrl) (d : DevCode) : (s.devNio f d).xpc = s.xpc := rfl
@[simp] theorem run_devNio (s : State) (f : Ctrl) (d : DevCode) : (s.devNio f d).run = s.run := rfl
@[simp] theorem parErr_devNio (s : State) (f : Ctrl) (d : DevCode) : (s.devNio f d).parErr = s.parErr := rfl
@[simp] theorem mem_devNio (s : State) (f : Ctrl) (d : DevCode) : (s.devNio f d).mem = s.mem := rfl
@[simp] theorem devices_devNio (s : State) (f : Ctrl) (d : DevCode) : (s.devNio f d).devices = s.devices.map fun x => if x.code == d then x.control f else x := rfl
@[simp] theorem ahead_devNio (s : State) (f : Ctrl) (d : DevCode) : (s.devNio f d).ahead = s.ahead := rfl
@[simp] theorem hung_devNio (s : State) (f : Ctrl) (d : DevCode) : (s.devNio f d).hung = s.hung := rfl
@[simp] theorem misread_devNio (s : State) (f : Ctrl) (d : DevCode) : (s.devNio f d).misread = s.misread := rfl
@[simp] theorem dchServed_devNio (s : State) (f : Ctrl) (d : DevCode) : (s.devNio f d).dchServed = s.dchServed := rfl
@[simp] theorem panels_devNio (s : State) (f : Ctrl) (d : DevCode) : (s.devNio f d).panels = s.panels := rfl
@[simp] theorem cfg_devNio (s : State) (f : Ctrl) (d : DevCode) : (s.devNio f d).cfg = s.cfg := rfl
@[simp] theorem inputs_devNio (s : State) (f : Ctrl) (d : DevCode) : (s.devNio f d).inputs = s.inputs := rfl
@[simp] theorem ioTrace_devNio (s : State) (f : Ctrl) (d : DevCode) : (s.devNio f d).ioTrace = .instr d .nio f :: s.ioTrace := rfl
@[simp] theorem draws_devNio (s : State) (f : Ctrl) (d : DevCode) : (s.devNio f d).draws = s.draws := rfl
@[simp] theorem ac_devNio (s : State) (f : Ctrl) (d : DevCode) (k : Ac) : (s.devNio f d).ac k = s.ac k := by cases k <;> rfl

/-! ### State.devTested -/

@[simp] theorem a0_devTested (s : State) (d : DevCode) (test : Ctrl) : (s.devTested d test).a0 = s.a0 := rfl
@[simp] theorem a1_devTested (s : State) (d : DevCode) (test : Ctrl) : (s.devTested d test).a1 = s.a1 := rfl
@[simp] theorem a2_devTested (s : State) (d : DevCode) (test : Ctrl) : (s.devTested d test).a2 = s.a2 := rfl
@[simp] theorem a3_devTested (s : State) (d : DevCode) (test : Ctrl) : (s.devTested d test).a3 = s.a3 := rfl
@[simp] theorem c_devTested (s : State) (d : DevCode) (test : Ctrl) : (s.devTested d test).c = s.c := rfl
@[simp] theorem pc_devTested (s : State) (d : DevCode) (test : Ctrl) : (s.devTested d test).pc = s.pc := rfl
@[simp] theorem ion_devTested (s : State) (d : DevCode) (test : Ctrl) : (s.devTested d test).ion = s.ion := rfl
@[simp] theorem ionPending_devTested (s : State) (d : DevCode) (test : Ctrl) : (s.devTested d test).ionPending = s.ionPending := rfl
@[simp] theorem mode64k_devTested (s : State) (d : DevCode) (test : Ctrl) : (s.devTested d test).mode64k = s.mode64k := rfl
@[simp] theorem eis_devTested (s : State) (d : DevCode) (test : Ctrl) : (s.devTested d test).eis = s.eis := rfl
@[simp] theorem pwrFail_devTested (s : State) (d : DevCode) (test : Ctrl) : (s.devTested d test).pwrFail = s.pwrFail := rfl
@[simp] theorem sp_devTested (s : State) (d : DevCode) (test : Ctrl) : (s.devTested d test).sp = s.sp := rfl
@[simp] theorem xpc_devTested (s : State) (d : DevCode) (test : Ctrl) : (s.devTested d test).xpc = s.xpc := rfl
@[simp] theorem run_devTested (s : State) (d : DevCode) (test : Ctrl) : (s.devTested d test).run = s.run := rfl
@[simp] theorem parErr_devTested (s : State) (d : DevCode) (test : Ctrl) : (s.devTested d test).parErr = s.parErr := rfl
@[simp] theorem mem_devTested (s : State) (d : DevCode) (test : Ctrl) : (s.devTested d test).mem = s.mem := rfl
@[simp] theorem devices_devTested (s : State) (d : DevCode) (test : Ctrl) : (s.devTested d test).devices = s.devices := rfl
@[simp] theorem ahead_devTested (s : State) (d : DevCode) (test : Ctrl) : (s.devTested d test).ahead = s.ahead := rfl
@[simp] theorem hung_devTested (s : State) (d : DevCode) (test : Ctrl) : (s.devTested d test).hung = s.hung := rfl
@[simp] theorem misread_devTested (s : State) (d : DevCode) (test : Ctrl) : (s.devTested d test).misread = s.misread := rfl
@[simp] theorem dchServed_devTested (s : State) (d : DevCode) (test : Ctrl) : (s.devTested d test).dchServed = s.dchServed := rfl
@[simp] theorem panels_devTested (s : State) (d : DevCode) (test : Ctrl) : (s.devTested d test).panels = s.panels := rfl
@[simp] theorem cfg_devTested (s : State) (d : DevCode) (test : Ctrl) : (s.devTested d test).cfg = s.cfg := rfl
@[simp] theorem inputs_devTested (s : State) (d : DevCode) (test : Ctrl) : (s.devTested d test).inputs = s.inputs := rfl
@[simp] theorem ioTrace_devTested (s : State) (d : DevCode) (test : Ctrl) : (s.devTested d test).ioTrace = .instr d .skip test :: s.ioTrace := rfl
@[simp] theorem draws_devTested (s : State) (d : DevCode) (test : Ctrl) : (s.devTested d test).draws = s.draws := rfl
@[simp] theorem ac_devTested (s : State) (d : DevCode) (test : Ctrl) (k : Ac) : (s.devTested d test).ac k = s.ac k := by cases k <;> rfl

/-! ### State.cpuTested -/

@[simp] theorem a0_cpuTested (s : State) (test : Ctrl) (skips : Bool) : (s.cpuTested test skips).a0 = s.a0 := rfl
@[simp] theorem a1_cpuTested (s : State) (test : Ctrl) (skips : Bool) : (s.cpuTested test skips).a1 = s.a1 := rfl
@[simp] theorem a2_cpuTested (s : State) (test : Ctrl) (skips : Bool) : (s.cpuTested test skips).a2 = s.a2 := rfl
@[simp] theorem a3_cpuTested (s : State) (test : Ctrl) (skips : Bool) : (s.cpuTested test skips).a3 = s.a3 := rfl
@[simp] theorem c_cpuTested (s : State) (test : Ctrl) (skips : Bool) : (s.cpuTested test skips).c = s.c := rfl
@[simp] theorem pc_cpuTested (s : State) (test : Ctrl) (skips : Bool) : (s.cpuTested test skips).pc = if skips then s.pc + 1 + 1 else s.pc + 1 := rfl
@[simp] theorem ion_cpuTested (s : State) (test : Ctrl) (skips : Bool) : (s.cpuTested test skips).ion = s.ion := rfl
@[simp] theorem ionPending_cpuTested (s : State) (test : Ctrl) (skips : Bool) : (s.cpuTested test skips).ionPending = false := rfl
@[simp] theorem mode64k_cpuTested (s : State) (test : Ctrl) (skips : Bool) : (s.cpuTested test skips).mode64k = s.mode64k := rfl
@[simp] theorem eis_cpuTested (s : State) (test : Ctrl) (skips : Bool) : (s.cpuTested test skips).eis = s.eis := rfl
@[simp] theorem pwrFail_cpuTested (s : State) (test : Ctrl) (skips : Bool) : (s.cpuTested test skips).pwrFail = s.pwrFail := rfl
@[simp] theorem sp_cpuTested (s : State) (test : Ctrl) (skips : Bool) : (s.cpuTested test skips).sp = s.sp := rfl
@[simp] theorem xpc_cpuTested (s : State) (test : Ctrl) (skips : Bool) : (s.cpuTested test skips).xpc = s.xpc := rfl
@[simp] theorem run_cpuTested (s : State) (test : Ctrl) (skips : Bool) : (s.cpuTested test skips).run = s.run := rfl
@[simp] theorem parErr_cpuTested (s : State) (test : Ctrl) (skips : Bool) : (s.cpuTested test skips).parErr = s.parErr := rfl
@[simp] theorem mem_cpuTested (s : State) (test : Ctrl) (skips : Bool) : (s.cpuTested test skips).mem = s.mem := rfl
@[simp] theorem devices_cpuTested (s : State) (test : Ctrl) (skips : Bool) : (s.cpuTested test skips).devices = s.devices := rfl
@[simp] theorem ahead_cpuTested (s : State) (test : Ctrl) (skips : Bool) : (s.cpuTested test skips).ahead = s.ahead := rfl
@[simp] theorem hung_cpuTested (s : State) (test : Ctrl) (skips : Bool) : (s.cpuTested test skips).hung = s.hung := rfl
@[simp] theorem misread_cpuTested (s : State) (test : Ctrl) (skips : Bool) : (s.cpuTested test skips).misread = s.misread := rfl
@[simp] theorem dchServed_cpuTested (s : State) (test : Ctrl) (skips : Bool) : (s.cpuTested test skips).dchServed = s.dchServed := rfl
@[simp] theorem panels_cpuTested (s : State) (test : Ctrl) (skips : Bool) : (s.cpuTested test skips).panels = s.panels := rfl
@[simp] theorem cfg_cpuTested (s : State) (test : Ctrl) (skips : Bool) : (s.cpuTested test skips).cfg = s.cfg := rfl
@[simp] theorem inputs_cpuTested (s : State) (test : Ctrl) (skips : Bool) : (s.cpuTested test skips).inputs = s.inputs := rfl
@[simp] theorem ioTrace_cpuTested (s : State) (test : Ctrl) (skips : Bool) : (s.cpuTested test skips).ioTrace = .instr cpuCode .skip test :: s.ioTrace := rfl
@[simp] theorem draws_cpuTested (s : State) (test : Ctrl) (skips : Bool) : (s.cpuTested test skips).draws = s.draws := rfl
@[simp] theorem ac_cpuTested (s : State) (test : Ctrl) (skips : Bool) (k : Ac) : (s.cpuTested test skips).ac k = s.ac k := by cases k <;> rfl

/-! ### State.cpuControl -/

@[simp] theorem a0_cpuControl (s : State) (f : Ctrl) : (s.cpuControl f).a0 = s.a0 := by cases f <;> rfl
@[simp] theorem a1_cpuControl (s : State) (f : Ctrl) : (s.cpuControl f).a1 = s.a1 := by cases f <;> rfl
@[simp] theorem a2_cpuControl (s : State) (f : Ctrl) : (s.cpuControl f).a2 = s.a2 := by cases f <;> rfl
@[simp] theorem a3_cpuControl (s : State) (f : Ctrl) : (s.cpuControl f).a3 = s.a3 := by cases f <;> rfl
@[simp] theorem c_cpuControl (s : State) (f : Ctrl) : (s.cpuControl f).c = s.c := by cases f <;> rfl
@[simp] theorem pc_cpuControl (s : State) (f : Ctrl) : (s.cpuControl f).pc = s.pc := by cases f <;> rfl
@[simp] theorem pwrFail_cpuControl (s : State) (f : Ctrl) : (s.cpuControl f).pwrFail = s.pwrFail := by cases f <;> rfl
@[simp] theorem sp_cpuControl (s : State) (f : Ctrl) : (s.cpuControl f).sp = s.sp := by cases f <;> rfl
@[simp] theorem xpc_cpuControl (s : State) (f : Ctrl) : (s.cpuControl f).xpc = s.xpc := by cases f <;> rfl
@[simp] theorem run_cpuControl (s : State) (f : Ctrl) : (s.cpuControl f).run = s.run := by cases f <;> rfl
@[simp] theorem parErr_cpuControl (s : State) (f : Ctrl) : (s.cpuControl f).parErr = s.parErr := by cases f <;> rfl
@[simp] theorem mem_cpuControl (s : State) (f : Ctrl) : (s.cpuControl f).mem = s.mem := by cases f <;> rfl
@[simp] theorem devices_cpuControl (s : State) (f : Ctrl) : (s.cpuControl f).devices = s.devices := by cases f <;> rfl
@[simp] theorem ahead_cpuControl (s : State) (f : Ctrl) : (s.cpuControl f).ahead = s.ahead := by cases f <;> rfl
@[simp] theorem hung_cpuControl (s : State) (f : Ctrl) : (s.cpuControl f).hung = s.hung := by cases f <;> rfl
@[simp] theorem misread_cpuControl (s : State) (f : Ctrl) : (s.cpuControl f).misread = s.misread := by cases f <;> rfl
@[simp] theorem dchServed_cpuControl (s : State) (f : Ctrl) : (s.cpuControl f).dchServed = s.dchServed := by cases f <;> rfl
@[simp] theorem panels_cpuControl (s : State) (f : Ctrl) : (s.cpuControl f).panels = s.panels := by cases f <;> rfl
@[simp] theorem cfg_cpuControl (s : State) (f : Ctrl) : (s.cpuControl f).cfg = s.cfg := by cases f <;> rfl
@[simp] theorem inputs_cpuControl (s : State) (f : Ctrl) : (s.cpuControl f).inputs = s.inputs := by cases f <;> rfl
@[simp] theorem ioTrace_cpuControl (s : State) (f : Ctrl) : (s.cpuControl f).ioTrace = s.ioTrace := by cases f <;> rfl
@[simp] theorem draws_cpuControl (s : State) (f : Ctrl) : (s.cpuControl f).draws = s.draws := by cases f <;> rfl
@[simp] theorem ac_cpuControl (s : State) (f : Ctrl) (k : Ac) : (s.cpuControl f).ac k = s.ac k := by cases f <;> cases k <;> rfl

/-! ### State.gotByte -/

@[simp] theorem a0_gotByte (s : State) (b : Byte) : (s.gotByte b).a0 = zext16 b := rfl
@[simp] theorem a1_gotByte (s : State) (b : Byte) : (s.gotByte b).a1 = s.a1 := rfl
@[simp] theorem a2_gotByte (s : State) (b : Byte) : (s.gotByte b).a2 = s.a2 := rfl
@[simp] theorem a3_gotByte (s : State) (b : Byte) : (s.gotByte b).a3 = s.a3 := rfl
@[simp] theorem c_gotByte (s : State) (b : Byte) : (s.gotByte b).c = s.c := rfl
@[simp] theorem pc_gotByte (s : State) (b : Byte) : (s.gotByte b).pc = s.pc := rfl
@[simp] theorem ion_gotByte (s : State) (b : Byte) : (s.gotByte b).ion = s.ion := rfl
@[simp] theorem ionPending_gotByte (s : State) (b : Byte) : (s.gotByte b).ionPending = s.ionPending := rfl
@[simp] theorem mode64k_gotByte (s : State) (b : Byte) : (s.gotByte b).mode64k = s.mode64k := rfl
@[simp] theorem eis_gotByte (s : State) (b : Byte) : (s.gotByte b).eis = s.eis := rfl
@[simp] theorem pwrFail_gotByte (s : State) (b : Byte) : (s.gotByte b).pwrFail = s.pwrFail := rfl
@[simp] theorem sp_gotByte (s : State) (b : Byte) : (s.gotByte b).sp = s.sp := rfl
@[simp] theorem xpc_gotByte (s : State) (b : Byte) : (s.gotByte b).xpc = s.xpc := rfl
@[simp] theorem run_gotByte (s : State) (b : Byte) : (s.gotByte b).run = s.run := rfl
@[simp] theorem parErr_gotByte (s : State) (b : Byte) : (s.gotByte b).parErr = s.parErr := rfl
@[simp] theorem mem_gotByte (s : State) (b : Byte) : (s.gotByte b).mem = s.mem := rfl
@[simp] theorem devices_gotByte (s : State) (b : Byte) : (s.gotByte b).devices = s.devices := rfl
@[simp] theorem ahead_gotByte (s : State) (b : Byte) : (s.gotByte b).ahead = s.ahead := rfl
@[simp] theorem hung_gotByte (s : State) (b : Byte) : (s.gotByte b).hung = s.hung := rfl
@[simp] theorem misread_gotByte (s : State) (b : Byte) : (s.gotByte b).misread = s.misread := rfl
@[simp] theorem dchServed_gotByte (s : State) (b : Byte) : (s.gotByte b).dchServed = s.dchServed := rfl
@[simp] theorem panels_gotByte (s : State) (b : Byte) : (s.gotByte b).panels = s.panels := rfl
@[simp] theorem cfg_gotByte (s : State) (b : Byte) : (s.gotByte b).cfg = s.cfg := rfl
@[simp] theorem inputs_gotByte (s : State) (b : Byte) : (s.gotByte b).inputs = s.inputs := rfl
@[simp] theorem ioTrace_gotByte (s : State) (b : Byte) : (s.gotByte b).ioTrace = s.ioTrace := rfl
@[simp] theorem draws_gotByte (s : State) (b : Byte) : (s.gotByte b).draws = s.draws := rfl

/-! ### State.setData -/

@[simp] theorem a0_setData (s : State) (v : Word) : (s.setData v).a0 = s.a0 := rfl
@[simp] theorem a1_setData (s : State) (v : Word) : (s.setData v).a1 = s.a1 := rfl
@[simp] theorem a2_setData (s : State) (v : Word) : (s.setData v).a2 = s.a2 := rfl
@[simp] theorem a3_setData (s : State) (v : Word) : (s.setData v).a3 = s.a3 := rfl
@[simp] theorem c_setData (s : State) (v : Word) : (s.setData v).c = s.c := rfl
@[simp] theorem pc_setData (s : State) (v : Word) : (s.setData v).pc = s.pc := rfl
@[simp] theorem ion_setData (s : State) (v : Word) : (s.setData v).ion = s.ion := rfl
@[simp] theorem ionPending_setData (s : State) (v : Word) : (s.setData v).ionPending = s.ionPending := rfl
@[simp] theorem mode64k_setData (s : State) (v : Word) : (s.setData v).mode64k = s.mode64k := rfl
@[simp] theorem eis_setData (s : State) (v : Word) : (s.setData v).eis = s.eis := rfl
@[simp] theorem pwrFail_setData (s : State) (v : Word) : (s.setData v).pwrFail = s.pwrFail := rfl
@[simp] theorem sp_setData (s : State) (v : Word) : (s.setData v).sp = s.sp := rfl
@[simp] theorem xpc_setData (s : State) (v : Word) : (s.setData v).xpc = s.xpc := rfl
@[simp] theorem run_setData (s : State) (v : Word) : (s.setData v).run = s.run := rfl
@[simp] theorem parErr_setData (s : State) (v : Word) : (s.setData v).parErr = s.parErr := rfl
@[simp] theorem mem_setData (s : State) (v : Word) : (s.setData v).mem = s.mem := rfl
@[simp] theorem devices_setData (s : State) (v : Word) : (s.setData v).devices = s.devices := rfl
@[simp] theorem ahead_setData (s : State) (v : Word) : (s.setData v).ahead = s.ahead := rfl
@[simp] theorem hung_setData (s : State) (v : Word) : (s.setData v).hung = s.hung := rfl
@[simp] theorem misread_setData (s : State) (v : Word) : (s.setData v).misread = s.misread := rfl
@[simp] theorem dchServed_setData (s : State) (v : Word) : (s.setData v).dchServed = s.dchServed := rfl
@[simp] theorem cfg_setData (s : State) (v : Word) : (s.setData v).cfg = s.cfg := rfl
@[simp] theorem inputs_setData (s : State) (v : Word) : (s.setData v).inputs = s.inputs := rfl
@[simp] theorem ioTrace_setData (s : State) (v : Word) : (s.setData v).ioTrace = s.ioTrace := rfl
@[simp] theorem draws_setData (s : State) (v : Word) : (s.setData v).draws = s.draws := rfl
@[simp] theorem ac_setData (s : State) (v : Word) (k : Ac) : (s.setData v).ac k = s.ac k := by cases k <;> rfl

/-! ### What an address names depends on the mode and the parameter only -/

theorem phys_eq (s t : State) (hm : t.mode64k = s.mode64k) (hc : t.cfg = s.cfg) (a : Word) : t.phys a = s.phys a := by
  unfold State.phys; rw [hm, hc]

@[simp] theorem phys_setAc (s : State) (n : Ac) (v a : Word) : (s.setAc n v).phys a = s.phys a := by cases n <;> rfl
@[simp] theorem phys_store (s : State) (b v a : Word) : (s.store b v).phys a = s.phys a := rfl
@[simp] theorem phys_proceeds (s : State) (a : Word) : s.proceeds.phys a = s.phys a := rfl
@[simp] theorem phys_rereads (s : State) (a : Word) : s.rereads.phys a = s.phys a := rfl
@[simp] theorem phys_write (s : State) (b v a : Word) : (s.write b v).phys a = s.phys a := rfl
@[simp] theorem phys_complete (s : State) (n a : Word) : (s.complete n).phys a = s.phys a := rfl
@[simp] theorem phys_advance (s : State) (l : Word) (k : Bool) (a : Word) : (s.advance l k).phys a = s.phys a := rfl
@[simp] theorem phys_drawn (s : State) (n : Nat) (a : Word) : (s.drawn n).phys a = s.phys a := rfl
@[simp] theorem phys_pushed (s : State) (v a : Word) : (s.pushed v).phys a = s.phys a := rfl
@[simp] theorem phys_level (s : State) (ea a : Word) : (s.level ea).phys a = s.phys a := by
  unfold State.level; split <;> rfl

end Sys2Proof.Laws
end

