-- ==== Sys2Proof/Laws/Ops.lean ====
section
/-! SUPPORT. One lemma for each shared operation that says once everything it can do. -/

namespace Sys2Proof.Laws

open Sys2Proof.Machine

/-! ### The indirect chain -/

/-- A level changes memory, and with the word it writes back a pending parity error there, only. -/
theorem level_eq (s : State) (ea : Word) :
    s.level ea = { s with mem := (s.level ea).mem, misread := (s.level ea).misread } := by
  unfold State.level; split <;> rfl

/-- A level at a location that is not an auto-index location changes nothing. -/
theorem level_plain (s : State) (ea : Word) (hi : autoIncrement (s.phys ea) = false)
    (hd : autoDecrement (s.phys ea) = false) : s.level ea = s ∧ s.levelWord ea = s.read ea := by
  simp [State.level, State.levelWord, hi, hd]

theorem level_wf (s : State) (ea : Word) (h : Memory.wf s.mem) : Memory.wf (s.level ea).mem := by
  unfold State.level; split
  · exact write_wf _ _ _ h
  · exact h

/-- The state a chain ends in. -/
def chainState : Chain → State
  | .address _ s => s
  | .more _ s => s

/-- One level, then the end or the rest of the chain. -/
theorem followChain_succ (n : Nat) (s : State) (ea : Word) :
    followChain (n + 1) s ea =
      if s.chainEnds (s.levelWord ea) then .address (s.levelWord ea) (s.level ea)
      else followChain n (s.level ea) (s.levelWord ea &&& 0o077777#16) := rfl

/-- A chain changes memory, and a pending parity error where it writes, only. -/
theorem followChain_eq (n : Nat) (s : State) (ea : Word) :
    chainState (followChain n s ea) =
      { s with mem := (chainState (followChain n s ea)).mem, misread := (chainState (followChain n s ea)).misread } := by
  induction n generalizing s ea with
  | zero => rfl
  | succ n ih =>
    rw [followChain_succ]
    by_cases h : s.chainEnds (s.levelWord ea) = true
    · rw [if_pos h]; exact level_eq s ea
    · rw [if_neg h]
      have := ih (s.level ea) (s.levelWord ea &&& 0o077777#16)
      rw [this, level_eq s ea]

theorem followChain_address (n : Nat) (s t : State) (ea e : Word) (h : followChain n s ea = .address e t) :
    t = { s with mem := t.mem, misread := t.misread } := by
  have := followChain_eq n s ea; rwa [h] at this

theorem followChain_more (n : Nat) (s t : State) (ea e : Word) (h : followChain n s ea = .more e t) :
    t = { s with mem := t.mem, misread := t.misread } := by
  have := followChain_eq n s ea; rwa [h] at this

theorem followChain_wf (n : Nat) (s : State) (ea : Word) (h : Memory.wf s.mem) :
    Memory.wf (chainState (followChain n s ea)).mem := by
  induction n generalizing s ea with
  | zero => exact h
  | succ n ih =>
    rw [followChain_succ]
    by_cases hc : s.chainEnds (s.levelWord ea) = true
    · rw [if_pos hc]; exact level_wf s ea h
    · rw [if_neg hc]; exact ih _ _ (level_wf s ea h)

/-! ### Memory reference -/

/-- A sequence that ends is followed whole. -/
theorem chain_address (s t : State) (ea e : Word) (h : followChain chainLevels s ea = .address e t) :
    s.chain ea = .address e t := by simp only [State.chain, h]

/-- A sequence that goes on is followed one level, which is not its last. -/
theorem chain_more (s t : State) (ea ea' : Word) (h : followChain chainLevels s ea = .more ea' t) :
    s.chain ea = .more (s.levelWord ea &&& 0o077777#16) (s.level ea) := by
  have hc : ¬ s.chainEnds (s.levelWord ea) = true := by
    intro hc
    rw [show chainLevels = 65535 + 1 from rfl, followChain_succ, if_pos hc] at h
    cases h
  simp only [State.chain, h]
  rw [show (1 : Nat) = 0 + 1 from rfl, followChain_succ, if_neg hc]; rfl

/-- The operation at the effective address changes accumulators, memory (a pending parity error where it writes with it), pc
and ION_PENDING only. -/
theorem perform_eq (op : MemOp) (e : Word) (s : State) :
    op.perform e s =
      { s with a0 := (op.perform e s).a0, a1 := (op.perform e s).a1, a2 := (op.perform e s).a2
               a3 := (op.perform e s).a3, mem := (op.perform e s).mem, misread := (op.perform e s).misread, pc := (op.perform e s).pc, ionPending := false } := by
  cases op <;> first
    | rfl
    | (rename_i ac; cases ac <;> rfl)

theorem perform_wf (op : MemOp) (e : Word) (s : State) (h : Memory.wf s.mem) : Memory.wf (op.perform e s).mem := by
  cases op with
  | jmp => exact h
  | jsr => exact h
  | isz => exact setWord_wf _ _ _ h
  | dsz => exact setWord_wf _ _ _ h
  | lda ac => cases ac <;> exact h
  | sta ac => exact setWord_wf _ _ _ h

theorem memRef_direct (op : MemOp) (m : MemRef) (s : State) (h : m.ind = false) :
    memRef op m s = op.perform (s.firstAddress m) s := by simp [memRef, h]

theorem memRef_address (op : MemOp) (m : MemRef) (s t : State) (e : Word) (h : m.ind = true)
    (hc : followChain chainLevels s (s.firstAddress m) = .address e t) : memRef op m s = op.perform e t := by
  simp only [memRef, h, chain_address _ _ _ _ hc, if_true]

/-- An instruction whose sequence goes on has followed its first level. -/
theorem memRef_more (op : MemOp) (m : MemRef) (s t : State) (ea : Word) (h : m.ind = true)
    (hc : followChain chainLevels s (s.firstAddress m) = .more ea t) :
    memRef op m s =
      (s.level (s.firstAddress m)).goesOn (.chain op (s.levelWord (s.firstAddress m) &&& 0o077777#16)) := by
  simp only [memRef, h, chain_more _ _ _ _ hc, if_true]

/-! ### Arithmetic and logic -/

/-- The pipeline changes the destination and the carry, unless NL, and the pc. -/
theorem aluRun_eq (fn : Word → Word → AluOut) (f : AluFields) (s : State) :
    aluRun fn f s =
      (if f.nl then s else { s.setAc f.acd (aluOutputs fn f s).r with c := (aluOutputs fn f s).cout }).advance 1
        (skipTest f.sk (aluOutputs fn f s).r (aluOutputs fn f s).cout) := rfl

/-- The adder in numbers. -/
theorem adder_r (x y : Word) (k : Bool) : (adder x y k).r.toNat = (x.toNat + y.toNat + k.toNat) % 65536 := by
  have hx := x.isLt; have hy := y.isLt
  simp only [adder, BitVec.toNat_setWidth, BitVec.toNat_add, BitVec.toNat_ofBool]
  cases k
  · simp
  · simp

theorem adder_cout (x y : Word) (k : Bool) : (adder x y k).cout = decide (65536 ≤ x.toNat + y.toNat + k.toNat) := by
  have hx := x.isLt; have hy := y.isLt
  have hb (t : Nat) (ht : t < 131072) : t.testBit 16 = decide (65536 ≤ t) := by
    rw [Nat.testBit_eq_decide_div_mod_eq]; congr 1; simp; omega
  simp only [adder, BitVec.getLsbD, BitVec.toNat_add, BitVec.toNat_setWidth, BitVec.toNat_ofBool]
  cases k
  · rw [hb _ (by omega)]; simp only [Bool.toNat_false]; congr 1; simp; omega
  · rw [hb _ (by omega)]; simp only [Bool.toNat_true]; congr 1; simp; omega

/-! ### Input and output -/

/-- An input transfer changes its accumulator, the devices and the I/O history. -/
theorem devTransferIn_eq (s : State) (ac : Ac) (f : Ctrl) (d : DevCode) (b : Buf) :
    s.devTransferIn ac f d b =
      { s.setAc ac (s.devIn d b) with
        devices := s.devices.map fun x => if x.code == d then x.control f else x
        ioTrace := .instr d (.input b (s.devIn d b)) f :: s.ioTrace } := by cases ac <;> rfl

/-- An output transfer changes the devices and the I/O history. -/
theorem devTransferOut_eq (s : State) (ac : Ac) (f : Ctrl) (d : DevCode) (b : Buf) :
    s.devTransferOut ac f d b =
      { s with
        devices := (s.devices.map fun x => if x.code == d then x.output b (s.ac ac) else x).map fun x =>
          if x.code == d then x.control f else x
        ioTrace := .instr d (.output b (s.ac ac)) f :: s.ioTrace } := rfl

/-- A device's code is fixed. -/
theorem output_code (x : Device) (b : Buf) (v : Word) : (x.output b v).code = x.code := by cases b <;> rfl
theorem control_code (x : Device) (f : Ctrl) : (x.control f).code = x.code := by cases f <;> rfl
theorem masked_code (x : Device) (w : Word) : (x.masked w).code = x.code := by unfold Device.masked; split <;> rfl
theorem load_code (x : Device) (b : Buf) (v : Word) : (x.load b v).code = x.code := by cases b <;> rfl

theorem find_device_same (l : List Device) (d : DevCode) (f : Device → Device) (hf : ∀ x, (f x).code = x.code) :
    (l.map fun x => if x.code == d then f x else x).find? (fun x => x.code == d) =
      (l.find? fun x => x.code == d).map f := by
  induction l with
  | nil => rfl
  | cons x t ih =>
    rw [List.map_cons, List.find?_cons, List.find?_cons]
    by_cases h : x.code = d
    · have h1 : (x.code == d) = true := by simpa using h
      simp only [h1, if_true, hf]; rfl
    · have h1 : (x.code == d) = false := by simpa using h
      simp only [h1, Bool.false_eq_true, if_false]; exact ih

theorem find_device_other (l : List Device) (d k : DevCode) (f : Device → Device) (hf : ∀ x, (f x).code = x.code)
    (hk : k ≠ d) :
    (l.map fun x => if x.code == d then f x else x).find? (fun x => x.code == k) = l.find? fun x => x.code == k := by
  induction l with
  | nil => rfl
  | cons x t ih =>
    rw [List.map_cons, List.find?_cons, List.find?_cons]
    by_cases h : x.code = d
    · have h1 : (x.code == d) = true := by simpa using h
      have h2 : (x.code == k) = false := by simpa using fun e => hk (e.symm.trans h)
      simp only [h1, if_true, hf, h2]; exact ih
    · have h1 : (x.code == d) = false := by simpa using h
      by_cases h' : x.code = k
      · have h2 : (x.code == k) = true := by simpa using h'
        simp [h1, h2]
      · have h2 : (x.code == k) = false := by simpa using h'
        simp only [h1, Bool.false_eq_true, if_false, h2]; exact ih

/-- The installed device with a code after a change of the device with that code. -/
theorem device_onDevice_same (s : State) (d : DevCode) (f : Device → Device) (hf : ∀ x, (f x).code = x.code) :
    (s.onDevice d f).device? d = (s.device? d).map f := find_device_same s.devices d f hf

/-- The other devices do not change. -/
theorem device_onDevice_other (s : State) (d k : DevCode) (f : Device → Device) (hf : ∀ x, (f x).code = x.code)
    (hk : k ≠ d) : (s.onDevice d f).device? k = s.device? k := find_device_other s.devices d k f hf hk

/-! ### Exceptions -/

/-- The stack fault changes memory (a pending parity error at the save cell with it), pc and ION_PENDING only. -/
theorem stackFault_eq (s : State) (saved : Word) :
    s.stackFault saved =
      { s with mem := setWord s.mem (s.phys (s.read 0o45#16)) saved
               misread := s.misread.filter fun m => m.1 != s.phys (s.read 0o45#16)
               pc := (s.write (s.read 0o45#16) saved).read (s.read 0o45#16 + 1), ionPending := false } := rfl

/-- Interrupt entry with the vector word used as it stands. -/
theorem interruptEntry_direct (s : State) (h : s.cfg.vectorReading = .direct) :
    s.interruptEntry = { s.interruptSave with pc := s.interruptSave.read 0o1#16 } := by
  have h' : s.interruptSave.cfg.vectorReading = .direct := h
  simp only [State.interruptEntry, h']

/-- What is saved at interrupt entry. -/
theorem interruptSave_eq (s : State) :
    s.interruptSave =
      { s with ion := false, ionPending := false, ahead := none, mem := setWord s.mem (s.phys 0o0#16) s.pc
               misread := s.misread.filter fun m => m.1 != s.phys 0o0#16 } := rfl

/-! ### Stack and byte operations -/

theorem pushed_read_same (s : State) (v : Word) : (s.pushed v).read (s.sp - 1) = v :=
  read_write_same { s with sp := s.sp - 1 } _ _

theorem pushed_read_other (s : State) (v a : Word) (h : s.phys a ≠ s.phys (s.sp - 1)) : (s.pushed v).read a = s.read a :=
  read_write_other { s with sp := s.sp - 1 } _ _ _ h

theorem pushed_wf (s : State) (v : Word) (h : Memory.wf s.mem) : Memory.wf (s.pushed v).mem := setWord_wf _ _ _ h

/-- The PUSHJUMP family in its two cases. -/
theorem pushJumpTo_eq (target : Word) (s : State) :
    pushJumpTo target s =
      if (s.pushed (s.pc + 2)).overflows then
        ((s.pushed (s.pc + 2)).drawn 1).stackFault (Config.freeWord s.draws)
      else (s.pushed (s.pc + 2)).complete target := rfl

theorem byteOf_high (w : Word) : byteOf w false = w.extractLsb' 8 8 := rfl
theorem byteOf_low (w : Word) : byteOf w true = w.extractLsb' 0 8 := rfl

/-- A stored byte is read back, the other byte of the word is kept. -/
theorem withByte_same (w : Word) (low : Bool) (v : Byte) : byteOf (withByte w low v) low = v := by
  cases low
  · simp only [byteOf, withByte, if_false, Bool.false_eq_true]
    ext i hi; rw [BitVec.getElem_extractLsb', BitVec.getLsbD_append]; simp [BitVec.getLsbD_eq_getElem hi]
  · simp only [byteOf, withByte, if_true]
    ext i hi; rw [BitVec.getElem_extractLsb', BitVec.getLsbD_append]; simp [hi]

theorem withByte_other (w : Word) (low : Bool) (v : Byte) : byteOf (withByte w low v) (!low) = byteOf w (!low) := by
  cases low
  · simp only [byteOf, withByte, if_false, if_true, Bool.false_eq_true, Bool.not_false]
    ext i hi; rw [BitVec.getElem_extractLsb', BitVec.getLsbD_append]; simp [hi]
  · simp only [byteOf, withByte, if_true, if_false, Bool.false_eq_true, Bool.not_true]
    ext i hi; rw [BitVec.getElem_extractLsb', BitVec.getLsbD_append]; simp [hi]

theorem putByte_eq (s : State) (base b : Word) (v : Byte) :
    s.putByte base b v = { s with mem := (s.putByte base b v).mem, misread := (s.putByte base b v).misread } := rfl

theorem putByte_wf (s : State) (base b : Word) (v : Byte) (h : Memory.wf s.mem) : Memory.wf (s.putByte base b v).mem :=
  setWord_wf _ _ _ h

/-! ### Acts of the devices -/

/-- A data channel cycle changes memory and the I/O history only. -/
theorem serveCycle_eq (s : State) (c : DchCycle) :
    s.serveCycle c = { s with mem := (s.serveCycle c).mem, ioTrace := (s.serveCycle c).ioTrace } := by cases c <;> rfl

theorem serveCycle_wf (s : State) (c : DchCycle) (h : Memory.wf s.mem) : Memory.wf (s.serveCycle c).mem := by
  cases c with
  | input d a v => exact setWord_wf _ _ _ h
  | output d a => exact h

theorem serveCycles_eq (cs : List DchCycle) (s : State) :
    cs.foldl State.serveCycle s =
      { s with mem := (cs.foldl State.serveCycle s).mem, ioTrace := (cs.foldl State.serveCycle s).ioTrace } := by
  induction cs generalizing s with
  | nil => rfl
  | cons c t ih =>
    simp only [List.foldl_cons]
    rw [ih (s.serveCycle c), serveCycle_eq s c]

theorem serveCycles_wf (cs : List DchCycle) (s : State) (h : Memory.wf s.mem) :
    Memory.wf (cs.foldl State.serveCycle s).mem := by
  induction cs generalizing s with
  | nil => exact h
  | cons c t ih => exact ih _ (serveCycle_wf s c h)

/-- Where no cycle waits none is served. -/
theorem servedOrder_nil (ds : List Device) : servedOrder ds [] = [] := by
  induction ds with
  | nil => rfl
  | cons d t ih => simp [servedOrder, ih]

/-- One cycle is served exactly when the installed device with its code uses the data channel and is started. -/
theorem waitingCycles_one (s : State) (c : DchCycle) (x : Device) (h : s.device? c.device = some x) :
    s.waitingCycles [c] = if x.dch && x.busy then [c] else [] := by
  unfold State.waitingCycles
  unfold State.device? at h
  generalize s.devices = ds at h ⊢
  induction ds with
  | nil => cases h
  | cons d t ih =>
    rw [List.find?_cons] at h
    by_cases hd : d.code = c.device
    · simp only [hd, beq_self_eq_true, Option.some.injEq] at h
      subst h
      simp [servedOrder, hd, servedOrder_nil]
    · have h1 : (d.code == c.device) = false := by simpa using hd
      have h2 : (c.device == d.code) = false := by simpa using fun e => hd e.symm
      have h3 : (c.device != d.code) = true := by simp [bne, h2]
      simp only [h1] at h
      simp [servedOrder, h2, h3, ih h]

/-- With power failing at most one cycle is admitted, and none before the processor has had its turn. -/
theorem admitted_failing (s : State) (cs : List DchCycle) (h : s.pwrFail = true) :
    s.admitted cs = if s.dchServed then [] else cs.take 1 := by simp only [State.admitted, h, if_true]

/-- The data channel changes memory, the I/O history, the fetched-ahead word and, while power is failing, the mark that a
cycle has been performed. -/
theorem dataChannel_eq (s : State) (cs : List DchCycle) (stale : Bool) :
    s.dataChannel cs stale =
      { s with mem := (s.dataChannel cs stale).mem, ioTrace := (s.dataChannel cs stale).ioTrace
               ahead := (s.dataChannel cs stale).ahead, dchServed := (s.dataChannel cs stale).dchServed } := by
  unfold State.dataChannel
  split
  · rfl
  · rw [serveCycles_eq]

theorem dataChannel_wf (s : State) (cs : List DchCycle) (stale : Bool) (h : Memory.wf s.mem) :
    Memory.wf (s.dataChannel cs stale).mem := by
  unfold State.dataChannel
  split
  · exact h
  · exact serveCycles_wf _ _ h

/-- What acts of the devices and of the power monitor can change. -/
theorem applyEnv_eq (s : State) (e : EnvEvent) :
    s.applyEnv e =
      { s with mem := (s.applyEnv e).mem, ioTrace := (s.applyEnv e).ioTrace, ahead := (s.applyEnv e).ahead
               dchServed := (s.applyEnv e).dchServed, devices := (s.applyEnv e).devices, pwrFail := (s.applyEnv e).pwrFail } := by
  cases e with
  | dataChannel cs stale => simp only [State.applyEnv]; rw [dataChannel_eq]
  | completes d late => rfl
  | arrives d v late => rfl
  | loads d b v => rfl
  | powerFailing => rfl

theorem applyEnv_wf (s : State) (e : EnvEvent) (h : Memory.wf s.mem) : Memory.wf (s.applyEnv e).mem := by
  cases e with
  | dataChannel cs stale => exact dataChannel_wf _ _ _ h
  | completes d late => exact h
  | arrives d v late => exact h
  | loads d b v => exact h
  | powerFailing => exact h

theorem applyEnvs_eq (es : List EnvEvent) (s : State) :
    es.foldl State.applyEnv s =
      { s with mem := (es.foldl State.applyEnv s).mem, ioTrace := (es.foldl State.applyEnv s).ioTrace
               ahead := (es.foldl State.applyEnv s).ahead, dchServed := (es.foldl State.applyEnv s).dchServed
               devices := (es.foldl State.applyEnv s).devices, pwrFail := (es.foldl State.applyEnv s).pwrFail } := by
  induction es generalizing s with
  | nil => rfl
  | cons e t ih =>
    simp only [List.foldl_cons]
    rw [ih (s.applyEnv e), applyEnv_eq s e]

theorem applyEnvs_wf (es : List EnvEvent) (s : State) (h : Memory.wf s.mem) :
    Memory.wf (es.foldl State.applyEnv s).mem := by
  induction es generalizing s with
  | nil => exact h
  | cons e t ih => exact ih _ (applyEnv_wf s e h)

/-- What a gap between two iterations can change. -/
theorem gap_eq (s : State) (live : Bool) :
    s.gap live =
      { s with mem := (s.gap live).mem, ioTrace := (s.gap live).ioTrace, ahead := (s.gap live).ahead
               inputs := (s.gap live).inputs, dchServed := (s.gap live).dchServed, devices := (s.gap live).devices
               pwrFail := (s.gap live).pwrFail } := by
  cases live with
  | false => rfl
  | true =>
    show s.between = _
    simp only [State.gap, if_true]
    unfold State.between
    split
    · rename_i es rest _
      rw [applyEnvs_eq es { s with inputs := rest }]
    · rfl

theorem gap_wf (s : State) (live : Bool) (h : Memory.wf s.mem) : Memory.wf (s.gap live).mem := by
  cases live with
  | false => exact h
  | true =>
    show Memory.wf s.between.mem
    unfold State.between
    split
    · exact applyEnvs_wf _ _ h
    · exact h

/-- Where no act is listed between two iterations, a gap changes nothing. -/
theorem gap_none (s : State) (live : Bool) (h : ∀ es rest, s.inputs ≠ .between es :: rest) : s.gap live = s := by
  cases live with
  | false => rfl
  | true =>
    show s.between = s
    unfold State.between
    split
    · rename_i es rest e; exact absurd e (h es rest)
    · rfl

end Sys2Proof.Laws
end

