-- ==== Sys2Proof/Laws/PerInstr.lean ====
section
/-! SUPPORT. Statements about every instruction, one lemma per constructor. WordCount: a well-formed instruction is encoded
in exactly its number of words (R80, R95). -/

namespace Sys2Proof.Laws.WordCount

/-- The encoding has as many words as the instruction occupies. -/
def Statement (i : Instr) : Prop :=
  ∀ (enc : EncTable) (eis : Bool), WellFormed enc eis i = true → (encode enc i).length = i.words

/-- An operation in the table has one first word. -/
theorem one_word (enc : EncTable) (op : ParamOp) (eis : Bool) (h : (eis && enc.knows op) = true) :
    (enc.word? op).toList.length = 1 := by
  have hk : (enc.word? op).isSome = true := by
    rw [Bool.and_eq_true] at h; exact h.2
  obtain ⟨w, hw⟩ := Option.isSome_iff_exists.1 hk
  rw [hw]; rfl

theorem jmp (m : MemRef) : Statement (.jmp m) := fun _ _ _ => rfl
theorem jsr (m : MemRef) : Statement (.jsr m) := fun _ _ _ => rfl
theorem isz (m : MemRef) : Statement (.isz m) := fun _ _ _ => rfl
theorem dsz (m : MemRef) : Statement (.dsz m) := fun _ _ _ => rfl
theorem lda (ac : Ac) (m : MemRef) : Statement (.lda ac m) := fun _ _ _ => rfl
theorem sta (ac : Ac) (m : MemRef) : Statement (.sta ac m) := fun _ _ _ => rfl
theorem com (f : AluFields) : Statement (.com f) := fun _ _ _ => rfl
theorem neg (f : AluFields) : Statement (.neg f) := fun _ _ _ => rfl
theorem mov (f : AluFields) : Statement (.mov f) := fun _ _ _ => rfl
theorem inc (f : AluFields) : Statement (.inc f) := fun _ _ _ => rfl
theorem adc (f : AluFields) : Statement (.adc f) := fun _ _ _ => rfl
theorem sub (f : AluFields) : Statement (.sub f) := fun _ _ _ => rfl
theorem add (f : AluFields) : Statement (.add f) := fun _ _ _ => rfl
theorem and_ (f : AluFields) : Statement (.and_ f) := fun _ _ _ => rfl
theorem nio (ac : Ac) (f : Ctrl) (d : DevCode) : Statement (.nio ac f d) := fun _ _ _ => rfl
theorem dia (ac : Ac) (f : Ctrl) (d : DevCode) : Statement (.dia ac f d) := fun _ _ _ => rfl
theorem doa (ac : Ac) (f : Ctrl) (d : DevCode) : Statement (.doa ac f d) := fun _ _ _ => rfl
theorem dib (ac : Ac) (f : Ctrl) (d : DevCode) : Statement (.dib ac f d) := fun _ _ _ => rfl
theorem dob (ac : Ac) (f : Ctrl) (d : DevCode) : Statement (.dob ac f d) := fun _ _ _ => rfl
theorem dic (ac : Ac) (f : Ctrl) (d : DevCode) : Statement (.dic ac f d) := fun _ _ _ => rfl
theorem doc (ac : Ac) (f : Ctrl) (d : DevCode) : Statement (.doc ac f d) := fun _ _ _ => rfl
theorem skpbn (ac : Ac) (d : DevCode) : Statement (.skpbn ac d) := fun _ _ _ => rfl
theorem skpbz (ac : Ac) (d : DevCode) : Statement (.skpbz ac d) := fun _ _ _ => rfl
theorem skpdn (ac : Ac) (d : DevCode) : Statement (.skpdn ac d) := fun _ _ _ => rfl
theorem skpdz (ac : Ac) (d : DevCode) : Statement (.skpdz ac d) := fun _ _ _ => rfl
theorem nioCpu (ac : Ac) : Statement (.nioCpu ac) := fun _ _ _ => rfl
theorem inten (ac : Ac) : Statement (.inten ac) := fun _ _ _ => rfl
theorem intds (ac : Ac) : Statement (.intds ac) := fun _ _ _ => rfl
theorem niopCpu (ac : Ac) : Statement (.niopCpu ac) := fun _ _ _ => rfl
theorem reads (ac : Ac) (f : Ctrl) : Statement (.reads ac f) := fun _ _ _ => rfl
theorem doaCpu (ac : Ac) (f : Ctrl) : Statement (.doaCpu ac f) := fun _ _ _ => rfl
theorem inta (ac : Ac) (f : Ctrl) : Statement (.inta ac f) := fun _ _ _ => rfl
theorem msko (ac : Ac) (f : Ctrl) : Statement (.msko ac f) := fun _ _ _ => rfl
theorem dicCpu (ac : Ac) (f : Ctrl) : Statement (.dicCpu ac f) := fun _ _ _ => rfl
theorem iorst : Statement (.iorst) := fun _ _ _ => rfl
theorem halt (ac : Ac) (f : Ctrl) : Statement (.halt ac f) := fun _ _ _ => rfl
theorem skpbnCpu (ac : Ac) : Statement (.skpbnCpu ac) := fun _ _ _ => rfl
theorem skpbzCpu (ac : Ac) : Statement (.skpbzCpu ac) := fun _ _ _ => rfl
theorem skpdnCpu (ac : Ac) : Statement (.skpdnCpu ac) := fun _ _ _ => rfl
theorem skpdzCpu (ac : Ac) : Statement (.skpdzCpu ac) := fun _ _ _ => rfl
theorem slei (k : BitVec 8) : Statement (.slei k) := fun _ _ _ => rfl
theorem sgri (k : BitVec 8) : Statement (.sgri k) := fun _ _ _ => rfl
theorem seqi (k : BitVec 8) : Statement (.seqi k) := fun _ _ _ => rfl
theorem snei (k : BitVec 8) : Statement (.snei k) := fun _ _ _ => rfl
theorem ldi (k : BitVec 8) : Statement (.ldi k) := fun _ _ _ => rfl
theorem adi (k : BitVec 8) : Statement (.adi k) := fun _ _ _ => rfl
theorem sbi (k : BitVec 8) : Statement (.sbi k) := fun _ _ _ => rfl
theorem clrb (ind : Bool) (mask : Word) : Statement (.clrb ind mask) := fun _ _ _ => rfl
theorem setb (ind : Bool) (mask : Word) : Statement (.setb ind mask) := fun _ _ _ => rfl
theorem togb (ind : Bool) (mask : Word) : Statement (.togb ind mask) := fun _ _ _ => rfl
theorem sbz (ind : Bool) (mask : Word) : Statement (.sbz ind mask) := fun _ _ _ => rfl
theorem sbo (ind : Bool) (mask : Word) : Statement (.sbo ind mask) := fun _ _ _ => rfl
theorem sbzc (ind : Bool) (mask : Word) : Statement (.sbzc ind mask) := fun _ _ _ => rfl
theorem sboc (ind : Bool) (mask : Word) : Statement (.sboc ind mask) := fun _ _ _ => rfl
theorem sbzs (ind : Bool) (mask : Word) : Statement (.sbzs ind mask) := fun _ _ _ => rfl
theorem sbos (ind : Bool) (mask : Word) : Statement (.sbos ind mask) := fun _ _ _ => rfl
theorem sbzt (ind : Bool) (mask : Word) : Statement (.sbzt ind mask) := fun _ _ _ => rfl
theorem sbot (ind : Bool) (mask : Word) : Statement (.sbot ind mask) := fun _ _ _ => rfl
theorem setsp (ac : Ac) : Statement (.setsp ac) := fun _ _ _ => rfl
theorem redsp (ac : Ac) : Statement (.redsp ac) := fun _ _ _ => rfl
theorem push (ac : Ac) : Statement (.push ac) := fun _ _ _ => rfl
theorem pop (ac : Ac) : Statement (.pop ac) := fun _ _ _ => rfl
theorem pushjump (address : Word) : Statement (.pushjump address) := fun _ _ _ => rfl
theorem rpushjump (disp : Word) : Statement (.rpushjump disp) := fun _ _ _ => rfl
theorem i2pushjump (disp : Word) : Statement (.i2pushjump disp) := fun _ _ _ => rfl
theorem i3pushjump (disp : Word) : Statement (.i3pushjump disp) := fun _ _ _ => rfl
theorem popjump : Statement (.popjump) := fun _ _ _ => rfl
theorem xload : Statement (.xload) := fun _ _ _ => rfl
theorem xstore : Statement (.xstore) := fun _ _ _ => rfl
theorem tablsearch : Statement (.tablsearch) := fun _ _ _ => rfl
theorem abinmultiply : Statement (.abinmultiply) := fun enc eis h => one_word enc .abinmultiply eis h
theorem bindivide : Statement (.bindivide) := fun enc eis h => one_word enc .bindivide eis h
theorem movewords : Statement (.movewords) := fun enc eis h => one_word enc .movewords eis h
theorem rmovwords : Statement (.rmovwords) := fun enc eis h => one_word enc .rmovwords eis h
theorem eisUnassigned (w : Word) : Statement (.eisUnassigned w) := fun _ _ _ => rfl
theorem nybsl : Statement (.nybsl) := fun enc eis h => one_word enc .nybsl eis h
theorem nybsr : Statement (.nybsr) := fun enc eis h => one_word enc .nybsr eis h
theorem decadd : Statement (.decadd) := fun enc eis h => one_word enc .decadd eis h
theorem decsub : Statement (.decsub) := fun enc eis h => one_word enc .decsub eis h
theorem convert : Statement (.convert) := fun enc eis h => one_word enc .convert eis h
theorem vjsr (subnum : BitVec 5) : Statement (.vjsr subnum) := fun enc eis h => one_word enc (.vjsr subnum) eis h
theorem getbyte : Statement (.getbyte) := fun enc eis h => one_word enc .getbyte eis h
theorem putbyte : Statement (.putbyte) := fun enc eis h => one_word enc .putbyte eis h
theorem sgetbyte : Statement (.sgetbyte) := fun enc eis h => one_word enc .sgetbyte eis h
theorem sputbyte : Statement (.sputbyte) := fun enc eis h => one_word enc .sputbyte eis h
theorem xgetbyte : Statement (.xgetbyte) := fun enc eis h => one_word enc .xgetbyte eis h
theorem xputbyte : Statement (.xputbyte) := fun enc eis h => one_word enc .xputbyte eis h
theorem xsgetbyte : Statement (.xsgetbyte) := fun enc eis h => one_word enc .xsgetbyte eis h
theorem xsputbyte : Statement (.xsputbyte) := fun enc eis h => one_word enc .xsputbyte eis h
theorem igetbyte (disp : BitVec 4) : Statement (.igetbyte disp) := fun enc eis h => one_word enc (.igetbyte disp) eis h
theorem iputbyte (disp : BitVec 4) : Statement (.iputbyte disp) := fun enc eis h => one_word enc (.iputbyte disp) eis h
theorem xtranslate : Statement (.xtranslate) := fun enc eis h => one_word enc .xtranslate eis h
theorem trace (address : Word) : Statement (.trace address) := by
  intro enc eis h
  show (((enc.word? .trace).toList) ++ [address]).length = 2
  rw [List.length_append, one_word enc .trace eis h]; rfl

end Sys2Proof.Laws.WordCount
end

