-- ==== Sys2Proof/Safety.lean ====
section
/-! DEFINITION. The terms claims use: a running and a stopped machine, an instruction that completes. -/

namespace Sys2Proof.Safety

open Sys2Proof.Machine

/-- The processor is at an instruction boundary, running, with power, and no act is listed before its turn. -/
def Ready (s : State) : Prop := s.run = true ∧ s.hung = none ∧ s.inputs = []

/-- The processor is stopped (R354). -/
def Stopped (s : State) : Prop := s.run = false

/-- The instruction at pc completes in one step. -/
def Completes (s t : State) : Prop := step s = .next t ∧ t.hung = none

/-- The step from `s` ends a run (R376): the processor's turn comes and the instruction it executes is a HALT. A stop by
the operator, a parity error or the loss of power is no end of a run. -/
def EndsRun (s t : State) : Prop :=
  step s = .next t ∧ s.run = true ∧ s.hung = none ∧ (s.inputs = [] ∨ ∃ rest, s.inputs = .proceed :: rest) ∧
    s.interruptDue = false ∧ ∃ ac f, s.nextInstr = .halt ac f

end Sys2Proof.Safety
end

