-- ==== Sys2Proof/Tests/Slice0.lean ====
section
/-! SUPPORT. Tests: the well-formedness checks, the decoding of words written out from the encoding tables, one or two steps
for each instruction (expected values from spec/95_test_vectors.md and the examples in the rules), and a witness for the
hypotheses of each statement. -/

namespace Sys2Proof.Tests

open Sys2Proof Sys2Proof.Machine Sys2Proof.Claims

/-- The machine of the test vectors: pc, EIS, and some memory words. -/
def bench (pc : Word) (eis : Bool) (words : List (Word × Word)) : State :=
  { State.reset with pc := pc, eis := eis, mem := words.foldl (fun m e => setWord m e.1 e.2) [] }

/-- Does one step from `s` give a next state with the property? -/
def after (s : State) (p : State → Bool) : Bool :=
  match step s with
  | .next t => p t
  | _ => false

/-- Does the instruction give a next state with the property? -/
def ran (i : Instr) (s : State) (p : State → Bool) : Bool :=
  match exec i s with
  | .next t => p t
  | _ => false

/-- Do `n` steps give a state with the property? -/
def afterSteps (n : Nat) (s : State) (p : State → Bool) : Bool :=
  match Host.Core.run Sys2Proof.core n s with
  | .next t => p t
  | _ => false

/-- A device of the vectors of section 2.3: code 25, not busy, done, buffers 111, 222, 333; it uses the data channel. -/
def unit25 : Device :=
  { Device.idle 0o25#6 none false with dch := true, done := true, intReq := true, inA := 0o111, inB := 0o222, inC := 0o333 }

/-! ## Well-formedness: each check refuses an ill-formed term (and accepts the well-formed neighbour) -/

/-- R154, R87: with EIS on, a NOP-skip combination is no arithmetic instruction. -/
theorem test_wf_nop_skip :
    ([Instr.com, .neg, .mov, .inc, .adc, .sub, .add, .and_].all fun k =>
      !WellFormed EncTable.default true (k ⟨.a0, .a1, .none, .current, true, .skp⟩) &&
        WellFormed EncTable.default false (k ⟨.a0, .a1, .none, .current, true, .skp⟩) &&
        WellFormed EncTable.default true (k ⟨.a0, .a1, .none, .current, true, .szc⟩)) = true := by decide

/-- R85, R200: device code 77 is no regular device. -/
theorem test_wf_regular_io_code_77 :
    ([Instr.nio .a0 .s, .dia .a0 .s, .doa .a0 .s, .dib .a0 .s, .dob .a0 .s, .dic .a0 .s, .doc .a0 .s, .skpbn .a0,
      .skpbz .a0, .skpdn .a0, .skpdz .a0].all fun k =>
      !WellFormed EncTable.default false (k 0o77#6) && WellFormed EncTable.default false (k 0o76#6)) = true := by decide

/-- R100: `DICC 0,CPU` is IORST. -/
theorem test_wf_dic_cpu_iorst :
    WellFormed EncTable.default false (.dicCpu .a0 .c) = false ∧
      WellFormed EncTable.default false (.dicCpu .a1 .c) = true := by decide

/-- R231: the extended instructions need EIS. -/
theorem test_wf_needs_eis :
    ([Instr.slei 0, .sgri 0, .seqi 0, .snei 0, .ldi 0, .adi 0, .sbi 0, .clrb false 0, .setb false 0, .togb false 0,
      .sbz true 0, .sbo true 0, .sbzc true 0, .sboc true 0, .sbzs true 0, .sbos true 0, .sbzt true 0, .sbot true 0,
      .setsp .a0, .redsp .a0, .push .a0, .pop .a0, .pushjump 0, .rpushjump 0, .i2pushjump 0, .i3pushjump 0, .popjump,
      .xload, .xstore, .tablsearch, .abinmultiply, .bindivide, .movewords, .rmovwords, .eisUnassigned 0o140071#16].all
        fun i => !WellFormed EncTable.default false i && WellFormed EncTable.default true i) = true := by decide

/-- R94: an unassigned word lies in the NOP-skip space, matches no firm row and is not in the table. -/
theorem test_wf_unassigned :
    WellFormed EncTable.default true (.eisUnassigned 0o140070#16) = false ∧
    WellFormed EncTable.default true (.eisUnassigned 0o140471#16) = false ∧
    WellFormed EncTable.default true (.eisUnassigned 0o170271#16) = false := by decide

/-- R93: an operation that the table does not hold has no encoding. -/
theorem test_wf_lost_encodings :
    ([Instr.nybsl, .nybsr, .decadd, .decsub, .convert, .vjsr 2, .getbyte, .putbyte, .sgetbyte, .sputbyte, .xgetbyte,
      .xputbyte, .xsgetbyte, .xsputbyte, .igetbyte 2, .iputbyte 2, .xtranslate, .trace 0].all fun i =>
        !WellFormed EncTable.default true i) = true := by decide

/-- R93: the same for the four operations of R92 under an empty table. -/
theorem test_wf_empty_table :
    ([Instr.abinmultiply, .bindivide, .movewords, .rmovwords].all fun i => !WellFormed [] true i) = true := by decide

/-- R290: a table may not use a word outside the NOP-skip space, a firm word, or one word twice. -/
theorem test_wf_table :
    EncTable.wf [(0o140670#16, .nybsl)] = false ∧ EncTable.wf [(0o140471#16, .nybsl)] = false ∧
    EncTable.wf [(0o140671#16, .nybsl), (0o140671#16, .nybsr)] = false ∧ EncTable.wf EncTable.default = true := by decide

/-! ## Decoding: words written out field by field from the encoding rules -/

/-- A table for the tests: words of the unassigned space given to the operations whose encoding is lost. -/
def table : EncTable :=
  EncTable.default ++
    [(0o140671#16, .nybsl), (0o141271#16, .nybsr), (0o141671#16, .decadd), (0o144271#16, .decsub), (0o144671#16, .convert),
     (0o145271#16, .vjsr 2), (0o145671#16, .getbyte), (0o146271#16, .putbyte), (0o146671#16, .sgetbyte),
     (0o147271#16, .sputbyte), (0o147671#16, .xgetbyte), (0o150271#16, .xputbyte), (0o150671#16, .xsgetbyte),
     (0o151271#16, .xsputbyte), (0o151671#16, .igetbyte 2), (0o152271#16, .iputbyte 0), (0o152671#16, .xtranslate),
     (0o153271#16, .trace)]

theorem test_table_wf : table.wf = true := by decide

/-- R82, R83: 000 op, I, X, D; 001 or 010, AC, I, X, D. -/
theorem test_decode_memory_reference :
    ([
      (0b0000010000000000#16, .jmp ⟨true, .pageZero, 0⟩),
      (0b0000001100000001#16, .jmp ⟨false, .baseA3, 1⟩),
      (0b0000100101010000#16, .jsr ⟨false, .relative, 0o120⟩),
      (0b0001000000101000#16, .isz ⟨false, .pageZero, 0o50⟩),
      (0b0001101000100101#16, .dsz ⟨false, .baseA2, 0o45⟩),
      (0b0010110000010000#16, .lda .a1 ⟨true, .pageZero, 0o20⟩),
      (0b0101101111111111#16, .sta .a3 ⟨false, .baseA3, 0o377⟩)
      ] : List (Word × Instr)).all (fun p => decode table false p.1 0o123456#16 == p.2) = true := by decide

/-- R86: 1, ACS, ACD, OPCODE, SH, CY, NL, SK. -/
theorem test_decode_arithmetic_logic :
    ([
      (0b1000100000000000#16, .com ⟨.a0, .a1, .none, .current, false, .never⟩),
      (0b1010100100000000#16, .neg ⟨.a1, .a1, .none, .current, false, .never⟩),
      (0b1101101011000000#16, .mov ⟨.a2, .a3, .swap, .current, false, .never⟩),
      (0b1000001110010000#16, .inc ⟨.a0, .a0, .right, .zero, false, .never⟩),
      (0b1000110000000011#16, .adc ⟨.a0, .a1, .none, .current, false, .snc⟩),
      (0b1010010100011100#16, .sub ⟨.a1, .a0, .none, .zero, true, .szr⟩),
      (0b1000111001111010#16, .add ⟨.a0, .a1, .left, .complement, true, .szc⟩),
      (0b1111011100100111#16, .and_ ⟨.a3, .a2, .none, .one, false, .sbn⟩),
      (0b1000001000000001#16, .mov ⟨.a0, .a0, .none, .current, false, .skp⟩),
      (0b1000111000010110#16, .add ⟨.a0, .a1, .none, .zero, false, .sez⟩),
      (0b1000001000001101#16, .mov ⟨.a0, .a0, .none, .current, true, .snr⟩)
      ] : List (Word × Instr)).all (fun p => decode table true p.1 0o123456#16 == p.2) = true := by decide

/-- R85: 011, AC, OPCODE, CTRL, DEVICE. -/
theorem test_decode_regular_io :
    ([
      (0b0110000001001000#16, .nio .a0 .s 0o10),
      (0b0111000110001000#16, .dia .a2 .c 0o10),
      (0b0110001001001001#16, .doa .a0 .s 0o11),
      (0b0110101100011011#16, .dib .a1 .none 0o33),
      (0b0111010001010101#16, .dob .a2 .s 0o25),
      (0b0111010111011011#16, .dic .a2 .p 0o33),
      (0b0111111001011011#16, .doc .a3 .s 0o33),
      (0b0110011100001001#16, .skpbn .a0 0o11),
      (0b0110011101001000#16, .skpbz .a0 0o10),
      (0b0110011110001000#16, .skpdn .a0 0o10),
      (0b0110011111001001#16, .skpdz .a0 0o11)
      ] : List (Word × Instr)).all (fun p => decode table false p.1 0o123456#16 == p.2) = true := by decide

/-- R85, R200 to R215: DEVICE 77. -/
theorem test_decode_code_77 :
    ([
      (0b0110000000111111#16, .nioCpu .a0),
      (0b0110000001111111#16, .inten .a0),
      (0b0110000010111111#16, .intds .a0),
      (0b0110000011111111#16, .niopCpu .a0),
      (0b0111100101111111#16, .reads .a3 .s),
      (0b0110001000111111#16, .doaCpu .a0 .none),
      (0b0110101100111111#16, .inta .a1 .none),
      (0b0110010000111111#16, .msko .a0 .none),
      (0b0110010100111111#16, .dicCpu .a0 .none),
      (0b0110010110111111#16, .iorst),
      (0b0110111000111111#16, .halt .a1 .none),
      (0b0110011100111111#16, .skpbnCpu .a0),
      (0b0110011101111111#16, .skpbzCpu .a0),
      (0b0110011110111111#16, .skpdnCpu .a0),
      (0b0111011111111111#16, .skpdzCpu .a2)
      ] : List (Word × Instr)).all (fun p => decode table false p.1 0o123456#16 == p.2) = true := by decide

/-- R89: 1, kind, K, op, 1001. -/
theorem test_decode_immediate :
    ([
      (0b1000000000001001#16, .slei 0),
      (0b1011111111011001#16, .sgri 0o377),
      (0b1001000001101001#16, .seqi 0o101),
      (0b1000000101111001#16, .snei 5),
      (0b1111111111001001#16, .ldi 0o377),
      (0b1100000001011001#16, .adi 1),
      (0b1100000101101001#16, .sbi 5)
      ] : List (Word × Instr)).all (fun p => decode table true p.1 0o123456#16 == p.2) = true := by decide

/-- R90: 110, T, TO, @, ACT, 00111001; the second word is the mask. -/
theorem test_decode_bit :
    ([
      (0b1100000100111001#16, .clrb false 0o123456),
      (0b1100001000111001#16, .setb false 0o123456),
      (0b1100011100111001#16, .togb true 0o123456),
      (0b1101000000111001#16, .sbz false 0o123456),
      (0b1101110000111001#16, .sbo true 0o123456),
      (0b1101000100111001#16, .sbzc false 0o123456),
      (0b1101100100111001#16, .sboc false 0o123456),
      (0b1101011000111001#16, .sbzs true 0o123456),
      (0b1101101000111001#16, .sbos false 0o123456),
      (0b1101001100111001#16, .sbzt false 0o123456),
      (0b1101101100111001#16, .sbot false 0o123456)
      ] : List (Word × Instr)).all (fun p => decode table true p.1 0o123456#16 == p.2) = true := by decide

/-- R91: 11, M, AC, DIR, 01111001; R92: 11, opcode, 10111001. -/
theorem test_decode_stack :
    ([
      (0b1101010001111001#16, .setsp .a2),
      (0b1100100001111001#16, .redsp .a1),
      (0b1110110001111001#16, .push .a1),
      (0b1111100001111001#16, .pop .a3),
      (0b1100010010111001#16, .pushjump 0o123456),
      (0b1100010110111001#16, .rpushjump 0o123456),
      (0b1100011010111001#16, .i2pushjump 0o123456),
      (0b1100011110111001#16, .i3pushjump 0o123456),
      (0b1100000010111001#16, .popjump),
      (0b1101100010111001#16, .xload),
      (0b1101110010111001#16, .xstore),
      (0b1110100010111001#16, .tablsearch),
      (0b1111000010111001#16, .abinmultiply),
      (0b1111000110111001#16, .bindivide),
      (0b1111100010111001#16, .movewords),
      (0b1111110010111001#16, .rmovwords),
      (0b1100000000111001#16, .eisUnassigned 0o140071)
      ] : List (Word × Instr)).all (fun p => decode table true p.1 0o123456#16 == p.2) = true := by decide

/-- R93: the first words of the test table. -/
theorem test_decode_parametric :
    ([
      (0o140671, .nybsl),
      (0o141271, .nybsr),
      (0o141671, .decadd),
      (0o144271, .decsub),
      (0o144671, .convert),
      (0o145271, .vjsr 2),
      (0o145671, .getbyte),
      (0o146271, .putbyte),
      (0o146671, .sgetbyte),
      (0o147271, .sputbyte),
      (0o147671, .xgetbyte),
      (0o150271, .xputbyte),
      (0o150671, .xsgetbyte),
      (0o151271, .xsputbyte),
      (0o151671, .igetbyte 2),
      (0o152271, .iputbyte 0),
      (0o152671, .xtranslate),
      (0o153271, .trace 0o123456)
      ] : List (Word × Instr)).all (fun p => decode table true p.1 0o123456#16 == p.2) = true := by decide

/-- R87: the same word with EIS off and on (Part 3 of the vectors). -/
theorem test_decode_depends_on_eis :
    decode table false 0o100011#16 0 = .com ⟨.a0, .a0, .none, .current, true, .skp⟩ ∧
    decode table true 0o100011#16 0 = .slei 0 ∧
    decode table false 0o177711#16 0 = .and_ ⟨.a3, .a3, .swap, .current, true, .skp⟩ ∧
    decode table true 0o177711#16 0 = .ldi 0o377 := by decide

/-- The opcode table's numbering: the second word is bits 31..16. -/
theorem test_decode_table_word :
    decodeTableWord 32 (0o142271 + 65536 * 0o2000) = some (.pushjump 0o2000) ∧
    decodeTableWord 16 0o142271 = some (.pushjump 0) ∧ decodeTableWord 16 0o063077 = some (.halt .a0 .none) := by decide

/-! ## Steps -/

/-! Section 1.2, 2.2: memory reference. -/

theorem test_jmp_relative : after (bench 0o1000 false [(0o1000, 0o405)])
    (fun t => t.pc == 0o1005) = true := by decide

theorem test_jmp_auto_increment_goes_on : after (bench 0o1000 false [(0o1000, 0o2020), (0o20, 0o77777), (0o0, 0o4321)])
    (fun t => t.pc == 0o4321 && memWord t.mem 0o20 == 0o100000) = true := by decide

theorem test_jsr_through_a3 : after ({ bench 0o1000 false [(0o1000, 0o5400)] with a3 := 0o2345 })
    (fun t => t.pc == 0o2345 && t.a3 == 0o1001) = true := by decide

theorem test_jsr_indirect : after (bench 0o1000 false [(0o1000, 0o6005), (0o5, 0o3000)])
    (fun t => t.pc == 0o3000 && t.a3 == 0o1001) = true := by decide

theorem test_isz_to_zero : after (bench 0o1000 false [(0o1000, 0o10050), (0o50, 0o177777)])
    (fun t => t.pc == 0o1002 && memWord t.mem 0o50 == 0) = true := by decide

theorem test_isz_no_skip : after (bench 0o1000 false [(0o1000, 0o10050), (0o50, 0o77777)])
    (fun t => t.pc == 0o1001 && memWord t.mem 0o50 == 0o100000) = true := by decide

theorem test_dsz_base_a2 : after ({ bench 0o1000 false [(0o1000, 0o15045), (0o2045, 0o1)] with a2 := 0o2000 })
    (fun t => t.pc == 0o1002 && memWord t.mem 0o2045 == 0) = true := by decide

theorem test_dsz_wraps : after (bench 0o1000 false [(0o1000, 0o14050), (0o50, 0o0)])
    (fun t => t.pc == 0o1001 && memWord t.mem 0o50 == 0o177777) = true := by decide

theorem test_lda_auto_increment : after (bench 0o1000 false [(0o1000, 0o26020), (0o20, 0o1234), (0o1235, 0o777)])
    (fun t => t.a1 == 0o777 && memWord t.mem 0o20 == 0o1235) = true := by decide

theorem test_lda_second_level : after (bench 0o1000 false [(0o1000, 0o22100), (0o100, 0o100200), (0o200, 0o300), (0o300, 0o66)])
    (fun t => t.a0 == 0o66 && t.pc == 0o1001) = true := by decide

theorem test_sta_negative_displacement : after ({ bench 0o1000 false [(0o1000, 0o41777)] with a0 := 0o123456, a3 := 0o4000 })
    (fun t => memWord t.mem 0o3777 == 0o123456 && t.pc == 0o1001) = true := by decide

theorem test_sta_auto_increment : after ({ bench 0o1000 false [(0o1000, 0o46021), (0o21, 0o4777)] with a1 := 0o707 })
    (fun t => memWord t.mem 0o21 == 0o5000 && memWord t.mem 0o5000 == 0o707) = true := by decide

/-! Sections 1.3, 2.1: arithmetic and logic. -/

theorem test_com : after ({ bench 0o1000 false [(0o1000, 0o104000)] with a1 := 5 })
    (fun t => t.a1 == 0o177777 && t.c == false) = true := by decide

theorem test_com_no_load_skip : after ({ bench 0o1000 false [(0o1000, 0o100011)] with a0 := 5 })
    (fun t => t.a0 == 5 && t.pc == 0o1002) = true := by decide

theorem test_neg_one : after ({ bench 0o1000 false [(0o1000, 0o124400)] with a1 := 1 })
    (fun t => t.a1 == 0o177777 && t.c == false) = true := by decide

theorem test_neg_zero : after (bench 0o1000 false [(0o1000, 0o100400)])
    (fun t => t.a0 == 0 && t.c == true) = true := by decide

theorem test_mov_left : after ({ bench 0o1000 false [(0o1000, 0o125100)] with a1 := 0o100001, c := true })
    (fun t => t.a1 == 3 && t.c == true) = true := by decide

theorem test_mov_swap : after ({ bench 0o1000 false [(0o1000, 0o155300)] with a2 := 0o11064, c := true })
    (fun t => t.a3 == 0o32022 && t.c == true) = true := by decide

theorem test_inc_wraps : after ({ bench 0o1000 false [(0o1000, 0o101400)] with a0 := 0o177777 })
    (fun t => t.a0 == 0 && t.c == true) = true := by decide

theorem test_inc_right : after ({ bench 0o1000 false [(0o1000, 0o101620)] with a0 := 0o177777, c := true })
    (fun t => t.a0 == 0o100000 && t.c == false) = true := by decide

theorem test_adc : after ({ bench 0o1000 false [(0o1000, 0o106000)] with a0 := 3, a1 := 5 })
    (fun t => t.a1 == 1 && t.c == true) = true := by decide

theorem test_adc_zero_base : after ({ bench 0o1000 false [(0o1000, 0o102020)] with a0 := 0o1234, c := true })
    (fun t => t.a0 == 0o177777 && t.c == false) = true := by decide

theorem test_sub_borrow : after ({ bench 0o1000 false [(0o1000, 0o106400)] with a0 := 5, a1 := 3 })
    (fun t => t.a1 == 0o177776 && t.c == false) = true := by decide

theorem test_sub_skip_test : after ({ bench 0o1000 false [(0o1000, 0o122433)] with a0 := 5, a1 := 5 })
    (fun t => t.pc == 0o1002 && t.a0 == 5 && t.c == false) = true := by decide

theorem test_add_shift_left : after ({ bench 0o1000 false [(0o1000, 0o107160)] with a0 := 3, a1 := 0o40000 })
    (fun t => t.a1 == 0o100007 && t.c == false) = true := by decide

theorem test_add_no_load : after ({ bench 0o1000 false [(0o1000, 0o107172)] with a0 := 1, a1 := 0o177777 })
    (fun t => t.pc == 0o1002 && t.a1 == 0o177777 && t.c == false) = true := by decide

theorem test_and : after ({ bench 0o1000 false [(0o1000, 0o107400)] with a0 := 0o170017, a1 := 0o123456, c := true })
    (fun t => t.a1 == 0o120016 && t.c == true) = true := by decide

theorem test_and_complement_base : after ({ bench 0o1000 false [(0o1000, 0o107460)] with a0 := 0o177400, a1 := 0o123456 })
    (fun t => t.a1 == 0o123400 && t.c == true) = true := by decide

/-! Section 2.3: regular input and output. -/

theorem test_nio_start : after ({ bench 0o1000 false [(0o1000, 0o60125)] with devices := [unit25] })
    (fun t => t.devBusy 0o25 && !t.devDone 0o25) = true := by decide

theorem test_dia : after ({ bench 0o1000 false [(0o1000, 0o64425)] with devices := [unit25] })
    (fun t => t.a1 == 0o111 && t.devDone 0o25) = true := by decide

theorem test_dia_absent : after ({ bench 0o1000 false [(0o1000, 0o64426)] with devices := [unit25], a1 := 5 })
    (fun t => t.a1 == 0) = true := by decide

theorem test_dib : after ({ bench 0o1000 false [(0o1000, 0o65425)] with devices := [unit25] })
    (fun t => t.a1 == 0o222) = true := by decide

theorem test_dic : after ({ bench 0o1000 false [(0o1000, 0o66425)] with devices := [unit25] })
    (fun t => t.a1 == 0o333) = true := by decide

theorem test_doa_low_byte : after ({ bench 0o1000 false [(0o1000, 0o61011)] with a0 := 0o177501 })
    (fun t => (t.device? 0o11 == some { Device.tto with outA := 0o101 }) && t.pc == 0o1001) = true := by decide

theorem test_dob_start : after ({ bench 0o1000 false [(0o1000, 0o72125)] with devices := [unit25], a2 := 0o777 })
    (fun t => (t.device? 0o25 == some { unit25 with outB := 0o777, busy := true, done := false, intReq := false })) = true := by decide

theorem test_doc_clear : after ({ bench 0o1000 false [(0o1000, 0o73225)] with devices := [unit25], a2 := 0o777 })
    (fun t => (t.device? 0o25 == some { unit25 with outC := 0o777, done := false, intReq := false })) = true := by decide

theorem test_skpbn : after ({ bench 0o1000 false [(0o1000, 0o63425)] with devices := [unit25] })
    (fun t => t.pc == 0o1001) = true := by decide

theorem test_skpbz_absent : after ({ bench 0o1000 false [(0o1000, 0o63526)] with devices := [unit25] })
    (fun t => t.pc == 0o1002) = true := by decide

theorem test_skpdn : after ({ bench 0o1000 false [(0o1000, 0o63625)] with devices := [unit25] })
    (fun t => t.pc == 0o1002) = true := by decide

theorem test_skpdz : after ({ bench 0o1000 false [(0o1000, 0o63725)] with devices := [unit25] })
    (fun t => t.pc == 0o1001) = true := by decide

/-! Sections 1.6, 2.4: device 77. -/

theorem test_nio_cpu : after (bench 0o1000 false [(0o1000, 0o60077)])
    (fun t => t.pc == 0o1001 && !t.ion) = true := by decide

theorem test_inten : after (bench 0o1000 false [(0o1000, 0o60177)])
    (fun t => t.ion && t.ionPending) = true := by decide

theorem test_intds : after ({ bench 0o1000 false [(0o1000, 0o60277)] with ion := true })
    (fun t => !t.ion && !t.ionPending) = true := by decide

theorem test_niop_both_modes : after ({ bench 0o1000 false [(0o1000, 0o60377)] with a0 := 0o100001 })
    (fun t => t.mode64k && t.eis) = true := by decide

theorem test_niop_no_jumpers : after ({ bench 0o1000 false [(0o1000, 0o60377)] with a0 := 0o100001, cfg := { Config.default with eisJumpers := false } })
    (fun t => t.mode64k && !t.eis) = true := by decide

theorem test_reads_mini_switches : after ({ bench 0o1000 false [(0o1000, 0o74477)] with cfg := { Config.default with ocuPresent := false }, panels := { State.reset.panels with miniSwitches := 0o33 } })
    (fun t => t.a3 == 0o33) = true := by decide

theorem test_reads_display_with_start : after ({ bench 0o1000 false [(0o1000, 0o74577)] with panels := { State.reset.panels with ocuData := 0o123456 } })
    (fun t => t.a3 == 0o123456 && t.ion && t.ionPending) = true := by decide

theorem test_inta_closest : after ({ bench 0o1000 false [(0o1000, 0o65477)] with devices := [{ Device.tti with intReq := true }, { Device.tto with intReq := true }] })
    (fun t => t.a1 == 0o10) = true := by decide

theorem test_inta_masked : after ({ bench 0o1000 false [(0o1000, 0o65477)] with devices := [{ Device.tti with intReq := true, intDisable := true }, { Device.tto with intReq := true }] })
    (fun t => t.a1 == 0o11) = true := by decide

theorem test_msko : after ({ bench 0o1000 false [(0o1000, 0o62077)] with a0 := 2 })
    (fun t => (t.devices.map fun d => d.intDisable) == [true, false]) = true := by decide

theorem test_dic_cpu : after ({ bench 0o1000 false [(0o1000, 0o62477)] with ion := true, mode64k := true, eis := true, devices := [{ Device.tti with busy := true, intDisable := true }] })
    (fun t => t.ion && !t.mode64k && !t.eis && (t.devices.map fun d => (d.busy, d.intDisable)) == [(false, false)]) = true := by decide

theorem test_iorst : after ({ bench 0o1000 false [(0o1000, 0o62677)] with ion := true, mode64k := true })
    (fun t => !t.ion && !t.mode64k) = true := by decide

theorem test_halt : after (bench 0o0 false [(0o0, 0o63077)])
    (fun t => !t.run && t.pc == 1) = true := by decide

theorem test_skpbn_cpu : after ({ bench 0o1000 false [(0o1000, 0o63477)] with ion := true, ionPending := true })
    (fun t => t.pc == 0o1002) = true := by decide

theorem test_skpbz_cpu : after (bench 0o1000 false [(0o1000, 0o63577)])
    (fun t => t.pc == 0o1002) = true := by decide

theorem test_skpdn_cpu : after ({ bench 0o1000 false [(0o1000, 0o63677)] with pwrFail := true })
    (fun t => t.pc == 0o1002) = true := by decide

theorem test_skpdz_cpu : after ({ bench 0o1000 false [(0o1000, 0o63777)] with pwrFail := true })
    (fun t => t.pc == 0o1001) = true := by decide

/-- R206: DOA CPU is not defined. -/
theorem test_doa_cpu : step (bench 0o1000 false [(0o1000, 0o61077)]) = .refused .doaCpuNotDefined := rfl

/-- R94: an unassigned word. -/
theorem test_unassigned : step (bench 0o1000 true [(0o1000, 0o140071)]) = .refused .eisUnassigned := rfl

/-! Section 2.5: immediates. -/

theorem test_slei : after ({ bench 0o1000 true [(0o1000, 0o137711)] with a0 := 0o377 })
    (fun t => t.pc == 0o1002) = true := by decide

theorem test_slei_unsigned : after ({ bench 0o1000 true [(0o1000, 0o137711)] with a0 := 0o177777 })
    (fun t => t.pc == 0o1001) = true := by decide

theorem test_sgri : after ({ bench 0o1000 true [(0o1000, 0o101231)] with a0 := 0o13 })
    (fun t => t.pc == 0o1002) = true := by decide

theorem test_seqi_all_bits : after ({ bench 0o1000 true [(0o1000, 0o110151)] with a0 := 0o100101 })
    (fun t => t.pc == 0o1001) = true := by decide

theorem test_snei : after ({ bench 0o1000 true [(0o1000, 0o100571)] with a0 := 6 })
    (fun t => t.pc == 0o1002) = true := by decide

theorem test_ldi : after ({ bench 0o1000 true [(0o1000, 0o177711)] with a0 := 0o177777, c := true })
    (fun t => t.a0 == 0o377 && t.c) = true := by decide

theorem test_adi_carry : after ({ bench 0o1000 true [(0o1000, 0o140131)] with a0 := 0o177777 })
    (fun t => t.a0 == 0 && t.c) = true := by decide

theorem test_sbi_borrow : after (bench 0o1000 true [(0o1000, 0o140151)])
    (fun t => t.a0 == 0o177777 && !t.c) = true := by decide

theorem test_sbi_zero : after ({ bench 0o1000 true [(0o1000, 0o140051)] with a0 := 5 })
    (fun t => t.a0 == 5 && t.c) = true := by decide

/-! Section 2.6: bits. -/

theorem test_clrb : after ({ bench 0o1000 true [(0o1000, 0o140471), (0o1001, 0o17)] with a0 := 0o177777 })
    (fun t => t.a0 == 0o177760 && t.pc == 0o1002) = true := by decide

theorem test_setb : after (bench 0o1000 true [(0o1000, 0o141071), (0o1001, 0o100001)])
    (fun t => t.a0 == 0o100001) = true := by decide

theorem test_togb : after ({ bench 0o1000 true [(0o1000, 0o141471), (0o1001, 0o177777)] with a0 := 0o125252 })
    (fun t => t.a0 == 0o52525) = true := by decide

theorem test_sbz_empty_mask : after ({ bench 0o1000 true [(0o1000, 0o150071), (0o1001, 0o0)] with a0 := 0o360 })
    (fun t => t.pc == 0o1003 && t.a0 == 0o360) = true := by decide

theorem test_sbz_no_skip : after ({ bench 0o1000 true [(0o1000, 0o150071), (0o1001, 0o20)] with a0 := 0o360 })
    (fun t => t.pc == 0o1002) = true := by decide

theorem test_sbo : after ({ bench 0o1000 true [(0o1000, 0o154071), (0o1001, 0o20)] with a0 := 0o360 })
    (fun t => t.pc == 0o1003) = true := by decide

theorem test_sbo_memory : after ({ bench 0o1000 true [(0o1000, 0o156071), (0o1001, 0o1), (0o2001, 0o3)] with a1 := 0o2000, a2 := 1 })
    (fun t => t.a0 == 3 && t.pc == 0o1003 && memWord t.mem 0o2001 == 3) = true := by decide

theorem test_sbzc : after ({ bench 0o1000 true [(0o1000, 0o150471), (0o1001, 0o1)] with a0 := 3 })
    (fun t => t.a0 == 2 && t.pc == 0o1002) = true := by decide

theorem test_sboc : after ({ bench 0o1000 true [(0o1000, 0o154471), (0o1001, 0o1)] with a0 := 3 })
    (fun t => t.a0 == 2 && t.pc == 0o1003) = true := by decide

theorem test_sbzs_memory : after ({ bench 0o1000 true [(0o1000, 0o153071), (0o1001, 0o100000), (0o2010, 0o5)] with a1 := 0o2000, a2 := 8 })
    (fun t => t.a0 == 0o100005 && memWord t.mem 0o2010 == 0o100005 && t.pc == 0o1003) = true := by decide

theorem test_sbos : after ({ bench 0o1000 true [(0o1000, 0o155071), (0o1001, 0o10)] with a0 := 8 })
    (fun t => t.a0 == 8 && t.pc == 0o1003) = true := by decide

theorem test_sbzt : after ({ bench 0o1000 true [(0o1000, 0o151471), (0o1001, 0o3)] with a0 := 4 })
    (fun t => t.a0 == 7 && t.pc == 0o1003) = true := by decide

theorem test_sbot : after ({ bench 0o1000 true [(0o1000, 0o155471), (0o1001, 0o3)] with a0 := 5 })
    (fun t => t.a0 == 6 && t.pc == 0o1003) = true := by decide

/-! Section 2.7: stack. -/

theorem test_setsp : after ({ bench 0o1000 true [(0o1000, 0o152171)] with a2 := 0o4000 })
    (fun t => t.sp == 0o4000) = true := by decide

theorem test_redsp : after ({ bench 0o1000 true [(0o1000, 0o144171)] with sp := 0o3210 })
    (fun t => t.a1 == 0o3210) = true := by decide

theorem test_push : after ({ bench 0o1000 true [(0o1000, 0o166171), (0o47, 0o3000)] with sp := 0o4000, a1 := 0o123456 })
    (fun t => t.sp == 0o3777 && memWord t.mem 0o3777 == 0o123456 && t.pc == 0o1001) = true := by decide

theorem test_push_overflow : after ({ bench 0o1000 true [(0o1000, 0o162171), (0o47, 0o3000), (0o45, 0o4001), (0o4002, 0o6000)] with sp := 0o3000, a0 := 0o55 })
    (fun t => t.sp == 0o2777 && memWord t.mem 0o2777 == 0o55 && memWord t.mem 0o4001 == 0o1001 && t.pc == 0o6000) = true := by decide

theorem test_pop : after ({ bench 0o1000 true [(0o1000, 0o174171), (0o46, 0o4000), (0o3777, 0o123456)] with sp := 0o3777 })
    (fun t => t.a3 == 0o123456 && t.sp == 0o4000 && t.pc == 0o1001) = true := by decide

theorem test_pop_underflow : after ({ bench 0o1000 true [(0o1000, 0o170171), (0o46, 0o4000), (0o4000, 0o77), (0o45, 0o4001), (0o4002, 0o6000)] with sp := 0o4000 })
    (fun t => t.a2 == 0o77 && t.sp == 0o4001 && memWord t.mem 0o4001 == 0o1001 && t.pc == 0o6000) = true := by decide

theorem test_pushjump : after ({ bench 0o1000 true [(0o1000, 0o142271), (0o1001, 0o2000), (0o47, 0o3000)] with sp := 0o4000 })
    (fun t => memWord t.mem 0o3777 == 0o1002 && t.sp == 0o3777 && t.pc == 0o2000) = true := by decide

theorem test_rpushjump : after ({ bench 0o1000 true [(0o1000, 0o142671), (0o1001, 0o177776)] with sp := 0o4000 })
    (fun t => t.pc == 0o776 && memWord t.mem 0o3777 == 0o1002) = true := by decide

theorem test_i2pushjump : after ({ bench 0o1000 true [(0o1000, 0o143271), (0o1001, 0o10)] with sp := 0o4000, a2 := 0o5000 })
    (fun t => t.pc == 0o5010) = true := by decide

theorem test_i3pushjump : after ({ bench 0o1000 true [(0o1000, 0o143671), (0o1001, 0o177777)] with sp := 0o4000, a3 := 0o5000 })
    (fun t => t.pc == 0o4777 && t.a3 == 0o5000) = true := by decide

theorem test_popjump : after ({ bench 0o1000 true [(0o1000, 0o140271), (0o46, 0o4000), (0o3777, 0o1002)] with sp := 0o3777 })
    (fun t => t.sp == 0o4000 && t.pc == 0o1002) = true := by decide

theorem test_popjump_underflow : after ({ bench 0o1000 true [(0o1000, 0o140271), (0o46, 0o4000), (0o45, 0o4001), (0o4002, 0o6000)] with sp := 0o4000 })
    (fun t => t.sp == 0o4001 && memWord t.mem 0o4001 == 0o1001 && t.pc == 0o6000) = true := by decide

/-! Section 2.8. -/

theorem test_nybsl : ran .nybsl ({ bench 0o1000 true [(0o2000, 0o11064), (0o2001, 0o53170)] with a0 := 1, a1 := 7, a2 := 0o2000 })
    (fun t => t.a1 == 1 && t.a0 == 0o20000 && memWord t.mem 0o2000 == 0o21505 && memWord t.mem 0o2001 == 0o63607) = true := by decide

theorem test_nybsl_one_word : ran .nybsl ({ bench 0o1000 true [(0o2000, 0o115274)] with a1 := 0o177765, a2 := 0o2000 })
    (fun t => t.a1 == 0o11 && t.a0 == 0o120000 && memWord t.mem 0o2000 == 0o125705) = true := by decide

theorem test_nybsr : ran .nybsr ({ bench 0o1000 true [(0o2000, 0o11064), (0o2001, 0o53170)] with a0 := 1, a2 := 0o2000 })
    (fun t => t.c && t.a0 == 0o177777 && t.a2 == 0o2002 && memWord t.mem 0o2000 == 0o443 && memWord t.mem 0o2001 == 0o42547) = true := by decide

theorem test_nybsr_digit_four : ran .nybsr ({ bench 0o1000 true [(0o2000, 0o11064)] with a1 := 0o17, a2 := 0o2000, c := true })
    (fun t => !t.c && memWord t.mem 0o2000 == 0o170443 && t.a2 == 0o2001) = true := by decide

theorem test_decadd_carry : ran .decadd ({ bench 0o1000 true [] with a0 := 0o114231, a1 := 0o401 })
    (fun t => t.a0 == 0 && t.c) = true := by decide

theorem test_decadd : ran .decadd ({ bench 0o1000 true [] with a0 := 0o11064, a1 := 0o41441 })
    (fun t => t.a0 == 0o52525 && !t.c) = true := by decide

theorem test_decsub_borrow : ran .decsub ({ bench 0o1000 true [] with a1 := 1, c := true })
    (fun t => t.a0 == 0o114631 && !t.c) = true := by decide

theorem test_decsub_borrow_in : ran .decsub ({ bench 0o1000 true [] with a0 := 0o50000, a1 := 0o44631 })
    (fun t => t.a0 == 0 && t.c) = true := by decide

theorem test_convert : ran .convert ({ bench 0o1000 true [] with a0 := 3, a2 := 0o14 })
    (fun t => t.a1 == 0 && t.a2 == 0o173 && !t.c) = true := by decide

theorem test_convert_overflow : ran .convert ({ bench 0o1000 true [] with a0 := 6, a1 := 0o14631, a2 := 0o114631 })
    (fun t => t.c && t.a0 == 6) = true := by decide

/-- D17: a nybble of ten in A0: the instruction completes. -/
theorem test_convert_no_digit : ran .convert ({ bench 0o1000 true [] with a0 := 0o12, a3 := 7 })
    (fun t => t.pc == 0o1001 && t.a0 == 0o12 && t.a3 == 7) = true := by decide

theorem test_vjsr : ran (.vjsr 2) (bench 0o1000 true [(0o1, 0o400), (0o375, 0o3000)])
    (fun t => t.a3 == 0o1001 && t.pc == 0o3000) = true := by decide

theorem test_xload : after ({ bench 0o1000 true [(0o1000, 0o154271), (0o40, 0o10000), (0o10005, 0o123)] with a2 := 5 })
    (fun t => t.a0 == 0o123) = true := by decide

theorem test_xstore : after ({ bench 0o1000 true [(0o1000, 0o156271), (0o41, 0o20000)] with a2 := 0o177777, a0 := 0o777 })
    (fun t => memWord t.mem 0o17777 == 0o777) = true := by decide

theorem test_getbyte : ran .getbyte ({ bench 0o1000 true [(0o2000, 0o40502)] with a1 := 0o4001 })
    (fun t => t.a0 == 0o102) = true := by decide

theorem test_getbyte_high : ran .getbyte ({ bench 0o1000 true [(0o2000, 0o40502)] with a1 := 0o4000 })
    (fun t => t.a0 == 0o101) = true := by decide

theorem test_putbyte : ran .putbyte ({ bench 0o1000 true [(0o2000, 0o40502)] with a1 := 0o4000, a0 := 0o177503 })
    (fun t => memWord t.mem 0o2000 == 0o41502) = true := by decide

theorem test_putbyte_low : ran .putbyte ({ bench 0o1000 true [(0o2000, 0o40502)] with a1 := 0o4001, a0 := 0o132 })
    (fun t => memWord t.mem 0o2000 == 0o40532) = true := by decide

theorem test_sgetbyte : ran .sgetbyte ({ bench 0o1000 true [(0o2000, 0o40502)] with a2 := 0o4001 })
    (fun t => t.a0 == 0o102 && t.a2 == 0o4002) = true := by decide

theorem test_sputbyte : ran .sputbyte ({ bench 0o1000 true [(0o2000, 0o40502)] with a1 := 0o4000, a0 := 0o103 })
    (fun t => memWord t.mem 0o2000 == 0o41502 && t.a1 == 0o4001) = true := by decide

theorem test_xgetbyte : ran .xgetbyte ({ bench 0o1000 true [(0o40, 0o100000), (0o100001, 0o40502)] with a1 := 3, mode64k := true })
    (fun t => t.a0 == 0o102) = true := by decide

theorem test_xputbyte : ran .xputbyte ({ bench 0o1000 true [(0o2000, 0o40502), (0o41, 0o100)] with a1 := 0o3600, a0 := 0o103 })
    (fun t => memWord t.mem 0o2000 == 0o41502) = true := by decide

theorem test_xsgetbyte : ran .xsgetbyte ({ bench 0o1000 true [(0o2000, 0o40502), (0o40, 0o2000)] with a2 := 1 })
    (fun t => t.a0 == 0o102 && t.a2 == 2) = true := by decide

theorem test_xsputbyte : ran .xsputbyte ({ bench 0o1000 true [(0o2000, 0o40502), (0o41, 0o2000)] with a1 := 1, a0 := 0o132 })
    (fun t => memWord t.mem 0o2000 == 0o40532 && t.a1 == 2) = true := by decide

theorem test_igetbyte : ran (.igetbyte 2) ({ bench 0o1000 true [(0o2000, 0o40502), (0o3002, 0o4000)] with a2 := 0o3000, a1 := 0o4002 })
    (fun t => memWord t.mem 0o3002 == 0o4001 && t.a0 == 0o102 && t.pc == 0o1002) = true := by decide

theorem test_igetbyte_limit : ran (.igetbyte 2) ({ bench 0o1000 true [(0o2000, 0o40502), (0o3002, 0o4002)] with a2 := 0o3000, a1 := 0o4002 })
    (fun t => memWord t.mem 0o3002 == 0o4002 && t.a0 == 0 && t.pc == 0o1001) = true := by decide

theorem test_iputbyte : ran (.iputbyte 0) ({ bench 0o1000 true [(0o2000, 0o40502), (0o3000, 0o4000)] with a2 := 0o3000, a1 := 0o4005, a0 := 0o132 })
    (fun t => memWord t.mem 0o3000 == 0o4001 && memWord t.mem 0o2000 == 0o40532 && t.pc == 0o1002) = true := by decide

theorem test_xtranslate_byte : ran .xtranslate ({ bench 0o1000 true [(0o2000, 0o40502), (0o1103, 0o60)] with a1 := 0o4001, a3 := 0o500 })
    (fun t => t.a0 == 0o60 && t.a1 == 0o4002 && t.pc == 0o500) = true := by decide

theorem test_xtranslate_jump : ran .xtranslate ({ bench 0o1000 true [(0o2000, 0o40502), (0o1103, 0o2000)] with a1 := 0o4001, a3 := 0o500 })
    (fun t => t.a0 == 0o102 && t.pc == 0o2000) = true := by decide

theorem test_abinmultiply : after ({ bench 0o1000 true [(0o1000, 0o170271)] with a0 := 10, a2 := 100, a1 := 5 })
    (fun t => t.a1 == 0 && t.a2 == 0o1755) = true := by decide

theorem test_abinmultiply_largest : after ({ bench 0o1000 true [(0o1000, 0o170271)] with a0 := 0o177777, a1 := 0o177777, a2 := 0o177777 })
    (fun t => t.a1 == 0o177777 && t.a2 == 0) = true := by decide

theorem test_bindivide : after ({ bench 0o1000 true [(0o1000, 0o170671)] with a0 := 0o12, a2 := 0o1755 })
    (fun t => t.a2 == 0o144 && t.a1 == 5 && !t.c) = true := by decide

theorem test_bindivide_by_zero : after ({ bench 0o1000 true [(0o1000, 0o170671)] with a2 := 5 })
    (fun t => t.c && t.a0 == 0 && t.pc == 0o1001) = true := by decide

theorem test_movewords : after ({ bench 0o1000 true [(0o1000, 0o174271), (0o2000, 0o1), (0o2001, 0o2), (0o2002, 0o3)] with a0 := 2, a1 := 0o2000, a2 := 0o2001, c := true })
    (fun t => memWord t.mem 0o2000 == 1 && memWord t.mem 0o2001 == 1 && memWord t.mem 0o2003 == 3 && t.a0 == 0o177777 && !t.c) = true := by decide

theorem test_rmovwords : after ({ bench 0o1000 true [(0o1000, 0o176271), (0o2001, 0o1), (0o2002, 0o2), (0o2003, 0o3)] with a0 := 2, a1 := 0o2003, a2 := 0o2002 })
    (fun t => memWord t.mem 0o2000 == 1 && memWord t.mem 0o2002 == 3 && memWord t.mem 0o2003 == 3 && t.a0 == 0o177777) = true := by decide

theorem test_tablsearch_found : after ({ bench 0o1000 true [(0o1000, 0o164271), (0o2000, 0o1), (0o2002, 0o7)] with a0 := 7, a1 := 2, a2 := 0o2000, a3 := 0o2006 })
    (fun t => t.a2 == 0o2002 && t.pc == 0o1002) = true := by decide

theorem test_tablsearch_missed : after ({ bench 0o1000 true [(0o1000, 0o164271), (0o2000, 0o1), (0o2002, 0o7)] with a0 := 9, a1 := 2, a2 := 0o2000, a3 := 0o2004 })
    (fun t => t.a2 == 0o2004 && t.pc == 0o1001) = true := by decide

theorem test_trace : ran (.trace 0o2000) ({ bench 0o1000 true [(0o1001, 0o2000), (0o2000, 0o101400)] with a0 := 5 })
    (fun t => t.a0 == 6 && t.xpc == 0o1001 && memWord t.mem 0o1001 == 0o2001 && t.pc == 0o1002) = true := by decide

theorem test_trace_jsr : ran (.trace 0o2000) ({ bench 0o1000 true [(0o1001, 0o2000), (0o2000, 0o5400)] with a3 := 0o3000 })
    (fun t => t.a3 == 0o2001 && memWord t.mem 0o1001 == 0o3000 && t.pc == 0o1002) = true := by decide

/-- D29: a remote HALT. -/
theorem test_trace_halt : exec (.trace 0o2000) (bench 0o1000 true [(0o2000, 0o63077)]) = .refused .tracedHalt := rfl

/-! Section 2.9: interrupts and stops. -/

/-- A request of the terminal output, the handler at 600. -/
def requesting (words : List (Word × Word)) : State :=
  { bench 0o400 false ((1, 0o600) :: words) with devices := [{ Device.tto with done := true, intReq := true }] }

/-- Sequence 1: INTEN, one more instruction, then the entry. -/
theorem test_interrupt_delay :
    afterSteps 3 (requesting [(0o400, 0o60177), (0o401, 0o101400), (0o402, 0o101400)])
      (fun t => t.a0 == 1 && !t.ion && memWord t.mem 0 == 0o402 && t.pc == 0o600) = true := by decide

/-- Sequence 3: INTEN then INTDS: no interrupt. -/
theorem test_interrupt_disabled_at_once :
    afterSteps 3 (requesting [(0o400, 0o60177), (0o401, 0o60277), (0o402, 0o101400)])
      (fun t => t.a0 == 1 && t.pc == 0o403) = true := by decide

/-- Sequence 5: the power-fail interrupt. -/
theorem test_power_fail_interrupt :
    afterSteps 2 { bench 0o401 false [(1, 0o600)] with ion := true, inputs := [.env .powerFailing] }
      (fun t => t.pwrFail && !t.ion && memWord t.mem 0 == 0o401 && t.pc == 0o600) = true := by decide

/-- Sequence 8: a stack fault, then the interrupt. -/
theorem test_fault_before_interrupt :
    afterSteps 2 { bench 0o1000 true
        [(0o1000, 0o162171), (1, 0o600), (0o47, 0o3000), (0o45, 0o4001), (0o4002, 0o6000)] with
        sp := 0o3000, ion := true, ionPending := true, devices := [{ Device.tto with intReq := true }] }
      (fun t => memWord t.mem 0o4001 == 0o1001 && memWord t.mem 0 == 0o6000 && t.pc == 0o600) = true := by decide

/-- Sequence 9: HALT with a request pending; CONT; the entry. -/
theorem test_halt_then_continue :
    afterSteps 4 { requesting [(0o400, 0o63077)] with
        ion := true, ionPending := true, inputs := [.proceed, .proceed, .panel (.cont .ocu)] }
      (fun t => t.run && memWord t.mem 0 == 0o401 && t.pc == 0o600) = true := by decide

/-- Sequence 10: OCU RESET. -/
theorem test_ocu_reset :
    after { bench 0o400 true [] with ion := true, mode64k := true, inputs := [.panel .reset], devices := [{ Device.tto with busy := true }] }
      (fun t => !t.ion && !t.mode64k && !t.eis && !t.run && !t.devBusy 0o11) = true := by decide

/-- Section 2.10, line 3: a data channel write to the word fetched ahead, both outcomes (R68). -/
theorem test_data_channel_both_outcomes :
    afterSteps 2 { bench 0o1001 false [(0o1001, 0o101400)] with
        devices := [{ unit25 with busy := true }], inputs := [.env (.dataChannel [.input 0o25 0o1001 0o63077] true)] } (fun t => t.a0 == 1 && t.run) = true ∧
    afterSteps 2 { bench 0o1001 false [(0o1001, 0o101400)] with
        devices := [{ unit25 with busy := true }], inputs := [.env (.dataChannel [.input 0o25 0o1001 0o63077] false)] } (fun t => t.a0 == 0 && !t.run) = true := by
  decide

/-- R377: every I/O instruction leaves a record, newest first: NIO without a pulse, a skip, INTA, IORST. -/
theorem test_io_record :
    afterSteps 4 (bench 0o1000 false [(0o1000, 0o60011), (0o1001, 0o63611), (0o1002, 0o65477), (0o1003, 0o62677)])
      (fun t => t.ioTrace ==
        [.instr 0o77 .ioReset .c, .instr 0o77 (.input .bufB 0) .none, .instr 0o11 .skip .c, .instr 0o11 .nio .none]) =
      true := by decide

/-- R188, R377: a key press at an idle TTI; the same act at TTO has no effect. -/
theorem test_unsolicited_input :
    after { State.reset with inputs := [.env (.arrives 0o10 0o101 false)] }
        (fun t => t.devices == [{ Device.tti with inA := 0o101, done := true, intReq := true }, Device.tto]) = true ∧
      after { State.reset with inputs := [.env (.arrives 0o11 0o101 false)] }
        (fun t => t.devices == [Device.tti, Device.tto]) = true := by decide

/-- R190: a busy device that does not use the data channel makes no cycle. -/
theorem test_no_data_channel :
    after { bench 0 false [] with
        devices := [{ Device.tto with busy := true }], inputs := [.env (.dataChannel [.input 0o11 5 7] false)] }
      (fun t => t.mem == [] && t.ioTrace == []) = true := by decide

/-- R349: with power failing one cycle, then the processor's turn, then the next cycle. -/
theorem test_alternate_cycles :
    afterSteps 3 { bench 0o1000 false [(0o1000, 0o101400)] with
        pwrFail := true, devices := [{ unit25 with busy := true }]
        inputs := [.env (.dataChannel [.input 0o25 5 1, .input 0o25 6 1] false),
          .env (.dataChannel [.input 0o25 7 1] false), .proceed, .env (.dataChannel [.input 0o25 8 1] false)] }
      (fun t => t.a0 == 1 && [5, 6, 7, 8].map (memWord t.mem) == [1, 0, 0, 0] && !t.dchServed) = true ∧
    afterSteps 4 { bench 0o1000 false [(0o1000, 0o101400)] with
        pwrFail := true, devices := [{ unit25 with busy := true }]
        inputs := [.env (.dataChannel [.input 0o25 5 1, .input 0o25 6 1] false),
          .env (.dataChannel [.input 0o25 7 1] false), .proceed, .env (.dataChannel [.input 0o25 8 1] false)] }
      (fun t => [5, 6, 7, 8].map (memWord t.mem) == [1, 0, 0, 1]) = true := by decide

/-- Log 41: with power failing INST STEP is the processor's turn: a cycle, the step, the next cycle. -/
theorem test_step_between_cycles :
    afterSteps 3 { bench 0o1000 false [(0o1000, 0o101400)] with
        run := false, pwrFail := true, devices := [{ unit25 with busy := true }]
        inputs := [.env (.dataChannel [.input 0o25 5 1] false), .panel .instStep,
          .env (.dataChannel [.input 0o25 6 1] false)] }
      (fun t => t.a0 == 1 && !t.run && [5, 6].map (memWord t.mem) == [1, 1]) = true := by decide

/-- R113, D38: a chain that goes on at location 100, which names itself: a data channel write there ends it. -/
theorem test_chain_ended_by_data_channel :
    afterSteps 3 { bench 0o1000 false [(0o1000, 0o2100), (0o100, 0o100100)] with
        hung := some ⟨.chain .jmp 0o100, false, false⟩, devices := [{ unit25 with busy := true }]
        inputs := [.proceed, .env (.dataChannel [.input 0o25 0o100 0o3000] false)] }
      (fun t => t.pc == 0o3000 && t.hung == none) = true := by decide

/-- R353, R364: the parity halt leaves memory and the pc alone; CONT goes on, the other OCU switches stay dead until RESET. -/
theorem test_parity_halt :
    afterSteps 2 { bench 0o1000 false [(0o1000, 0o20005), (5, 7)] with
        cfg := { Config.default with parityOption := true }
        inputs := [.parity (.data 5), .panel .start] }
      (fun t => !t.run && t.parErr && t.pc == 0o1000 && memWord t.mem 5 == 7) = true ∧
    afterSteps 3 { bench 0o1000 false [(0o1000, 0o20005), (5, 7)] with
        cfg := { Config.default with parityOption := true }
        inputs := [.parity (.data 5), .panel (.cont .ocu)] }
      (fun t => t.run && !t.parErr && t.pc == 0o1001 && memWord t.mem 5 == 7 && t.misread == none &&
        t.panels.ocuLocked) = true := by decide

/-- R36, R68: STOP, a data channel write at the pc, INST STEP: the fetched word or the new one; CONT fetches afresh (R364). -/
theorem test_fetched_while_stopped :
    ([(true, PanelAct.instStep), (false, .instStep), (true, .cont .ocu)].map fun p =>
      afterSteps 4 { bench 0o1000 false [(0o1000, 0o101400)] with
          devices := [{ unit25 with busy := true }]
          inputs := [.panel (.stop .ocu), .env (.dataChannel [.input 0o25 0o1000 0o20005] p.1), .panel p.2] }
        fun u => u.a0 == 1) = [true, false, false] := by decide

/-- R36: DEP at the pc, then INST STEP, both outcomes. -/
theorem test_deposit_at_pc :
    ([true, false].map fun stale => after { bench 0o1000 false [(0o1000, 0o101400)] with
        run := false, panels := { State.reset.panels with ocuData := 0o20005 }, inputs := [.panel (.dep stale)] }
      fun t => after { t with inputs := [.panel .instStep] } fun u => u.a0 == 1) = [true, false] := by decide

/-- R61, R190: the device of a cycle need not be the only one. -/
theorem test_cycle_among_devices :
    after { bench 0 false [] with
        devices := [Device.tti, { unit25 with busy := true }, Device.tto]
        inputs := [.env (.dataChannel [.input 0o25 5 7] false)] }
      (fun t => memWord t.mem 5 == 7 && t.ioTrace.length == 1) = true := by decide

/-- R353: at a stopped processor a parity error hits only a read that the panel or the data channel makes. -/
theorem test_parity_stopped :
    (after { bench 0o1000 false [(5, 7)] with
        run := false, cfg := { Config.default with parityOption := true }, inputs := [.parity (.data 5)] }
      fun t => !t.parErr) = true ∧
    (after { bench 0o1000 false [(5, 7)] with
        run := false, cfg := { Config.default with parityOption := true }, devices := [{ unit25 with busy := true }]
        inputs := [.parity (.channel 0o25 5)] }
      fun t => t.parErr && t.ioTrace.length == 1 && memWord t.mem 5 == 7) = true ∧
    (after { bench 4 false [(5, 7)] with
        run := false, cfg := { Config.default with parityOption := true }, inputs := [.parity (.examined .examNext)] }
      fun t => t.parErr && t.pc == 5 && memWord t.mem 5 == 7) = true := by decide

/-- The read that the error has hit delivers the free value. -/
theorem test_parity_value :
    (match Host.Core.run Sys2Proof.core 3 { bench 0o1000 false [(0o1000, 0o20005), (5, 7)] with
        cfg := { Config.default with parityOption := true }
        inputs := [.parity (.data 5), .panel (.cont .ocu)] } with
      | .next t => t.a0
      | _ => 0) = Config.freeWord 0 := rfl

/-- The host's interface: the word is stored where the next step fetches. -/
theorem test_with_fetch_word :
    after (State.reset.withFetchWord 16 0o101400) (fun t => t.a0 == 1) = true ∧
    after (State.reset.withFetchWord 32 (0o141071 + 65536 * 0o17)) (fun t => t.a0 == 0o17 && t.pc == 2) = true := by decide
/-! ## Witnesses: for each statement with hypotheses, operands and states that meet them, at the boundaries of each clause -/

theorem witness_DecodeOfEncode :
    table.wf = true ∧ WellFormed table true (.vjsr 2) = true ∧
      WellFormed table false (.add ⟨.a0, .a1, .none, .current, true, .skp⟩) = true := by decide

theorem witness_EncodeOfDecode : table.wf = true ∧ (table.map (·.2)).Nodup := by decide

theorem witness_NopSkipWithoutEis :
    ((0o100011#16).getLsbD 15 = true ∧ (0o100011#16).extractLsb' 0 4 = 0b1001#4) ∧
    ¬ ((0o100010#16).getLsbD 15 = true ∧ (0o100010#16).extractLsb' 0 4 = 0b1001#4) := by decide

theorem witness_FirstAddress :
    (⟨false, .pageZero, 0o377⟩ : MemRef).x = .pageZero ∧ (⟨false, .relative, 0o200⟩ : MemRef).x = .relative ∧
      (⟨false, .baseA2, 0o177⟩ : MemRef).x = .baseA2 ∧ (⟨false, .baseA3, 0o200⟩ : MemRef).x = .baseA3 := by decide

/-- Addresses 17, 20, 27, 30, 37 and 40: each side of each range. -/
theorem witness_IndirectIn64kMode :
    ({ bench 0 false [] with mode64k := true } : State).mode64k = true ∧
      ([0o17#16, 0o20, 0o27, 0o30, 0o37, 0o40].map fun a =>
        (decide (0o20 ≤ a.toNat ∧ a.toNat ≤ 0o27), decide (0o30 ≤ a.toNat ∧ a.toNat ≤ 0o37))) =
        [(false, false), (true, false), (true, false), (false, true), (false, true), (false, false)] := by decide

/-- One level at the addresses 17, 20, 27, 30, 37 and 40, with the top bit of the address word 0 and 1 at each: `v` is the
word as the level steps it. -/
theorem witness_IndirectIn32kMode_one_level :
    (∀ a ∈ [0o17#16, 0o40], ∀ x ∈ [0o77777#16, 0o100000], ∃ s : State, s.mode64k = false ∧ s.phys a = a ∧ s.read a = x) ∧
    (∀ a ∈ [0o20#16, 0o27], ∀ v ∈ [0o77777#16, 0o100000], ∃ s : State, s.mode64k = false ∧
      0o20 ≤ (s.phys a).toNat ∧ (s.phys a).toNat ≤ 0o27 ∧ v = s.read a + 1) ∧
    ∀ a ∈ [0o30#16, 0o37], ∀ v ∈ [0o77777#16, 0o100000], ∃ s : State, s.mode64k = false ∧
      0o30 ≤ (s.phys a).toNat ∧ (s.phys a).toNat ≤ 0o37 ∧ v = s.read a - 1 := by
  refine ⟨fun a ha x hx => ⟨bench 0 false [(a, x)], rfl, ?_⟩, fun a ha v hv => ⟨bench 0 false [(a, v - 1)], rfl, ?_⟩,
    fun a ha v hv => ⟨bench 0 false [(a, v + 1)], rfl, ?_⟩⟩
  · fin_cases ha <;> fin_cases hx <;> decide
  · fin_cases ha <;> fin_cases hv <;> decide
  · fin_cases ha <;> fin_cases hv <;> decide

theorem witness_IndirectIn32kMode_second_level :
    ∀ d ∈ [0o17#8, 0o40#8], ∃ (s : State) (b e : Word), s.mode64k = false ∧ (d.toNat < 0o20 ∨ 0o37 < d.toNat) ∧
      (b.toNat < 0o20 ∨ 0o37 < b.toNat) ∧ b.toNat < 32768 ∧ e.toNat < 32768 ∧
      s.read (d.setWidth 16) = b + 0o100000#16 ∧ s.read b = e := by
  intro d hd
  refine ⟨bench 0 false [(0o17, 0o177777), (0o40, 0o177777), (0o77777, 0o77777)], 0o77777, 0o77777, ?_⟩
  revert d; decide

theorem witness_IndirectIn32kMode_increment :
    ∀ d ∈ [0o20#8, 0o27#8], ∃ s : State, s.mode64k = false ∧ 0o20 ≤ d.toNat ∧ d.toNat ≤ 0o27 ∧
      s.read (d.setWidth 16) = 0o77777#16 ∧ (s.read 0).toNat < 32768 := by
  intro d hd
  refine ⟨bench 0 false [(0o20, 0o77777), (0o27, 0o77777), (0, 0o77777)], ?_⟩
  revert d; decide

theorem witness_IndirectIn32kMode_decrement :
    ∀ d ∈ [0o30#8, 0o37#8], ∃ s : State, s.mode64k = false ∧ 0o30 ≤ d.toNat ∧ d.toNat ≤ 0o37 ∧
      s.read (d.setWidth 16) = 0o100000#16 := by
  intro d hd
  refine ⟨bench 0 false [(0o30, 0o100000), (0o37, 0o100000)], ?_⟩
  revert d; decide

theorem witness_ChainWritesAutoIndexCellsOnly :
    (∃ e t, followChain 1 (bench 0 false []) 0o20 = .address e t) ∧
      ∃ e t, followChain 1 (bench 0 false [(0o20, 0o77777)]) 0o20 = .more e t := ⟨⟨_, _, rfl⟩, ⟨_, _, rfl⟩⟩

theorem witness_EndlessChainIsStuck :
    ∀ d ∈ [0o17#8, 0o40#8], ∃ s : State, s.mode64k = false ∧ s.run = true ∧ s.inputs = [] ∧
      s.misread = none ∧ s.dchServed = false ∧ (d.toNat < 0o20 ∨ 0o37 < d.toNat) ∧
      s.read (d.setWidth 16) = d.setWidth 16 + 0o100000#16 := by
  intro d hd
  refine ⟨bench 0 false [(0o17, 0o100017), (0o40, 0o100040)], ?_⟩
  revert d; decide

/-- Direct and indirect (Jumps, ModifyMemory, MoveData). -/
theorem witness_Reaches :
    Reaches (bench 0o1000 false []) ⟨false, .relative, 5⟩ 0o1005 (bench 0o1000 false []) ∧
      ∃ s1, Reaches (bench 0o1000 false [(5, 0o3000)]) ⟨true, .pageZero, 5⟩ 0o3000 s1 :=
  ⟨⟨rfl, rfl⟩, ⟨_, rfl⟩⟩

theorem witness_ArithmeticLogic_load_and_no_load :
    (⟨.a0, .a1, .none, .current, false, .never⟩ : AluFields).nl = false ∧
      (⟨.a0, .a1, .none, .current, true, .skp⟩ : AluFields).nl = true := by decide

theorem witness_RegularInput :
    State.reset.device? 0o10 = some Device.tti ∧ State.reset.device? 0o26 = none := by decide

theorem witness_NioPulses :
    State.reset.device? 0o11 = some Device.tto ∧ Device.tto.onStart = .start ∧ Device.tto.onClear = .clear ∧
      Device.tto.onPulse = .nothing := by decide

theorem witness_ReadSwitches :
    State.reset.cfg.ocuPresent = true ∧
      ({ State.reset with cfg := { Config.default with ocuPresent := false } } : State).cfg.ocuPresent = false := by decide

theorem witness_InterruptAcknowledge :
    (∃ (s : State) (closer farther : List Device) (d : Device), s.devices = closer ++ d :: farther ∧ d.intReq = true ∧
      d.intDisable = false ∧ ∀ x ∈ closer, x.intReq = true → x.intDisable = true) ∧
    ∀ x ∈ State.reset.devices, x.intReq = true → x.intDisable = true :=
  ⟨⟨{ State.reset with devices := [Device.tti, { Device.tto with intReq := true }] }, [Device.tti], [],
      { Device.tto with intReq := true }, rfl, rfl, rfl, by decide⟩, by decide⟩

theorem witness_UndefinedInstructionsRefused : unassignedWord EncTable.default 0o140071 = true := by decide

/-- Push to the limit, pop to the frame. -/
theorem witness_StackWithinLimits :
    ((afterPush { bench 0 true [(0o47, 0o3777)] with sp := 0o4000 } 5).read 0o47).toNat ≤ (0o4000#16 - 1).toNat ∧
      (0o3777#16 + 1).toNat ≤ ((bench 0 true [(0o46, 0o4000)]).read 0o46).toNat := by decide

/-- Push below the limit, pop above the frame. -/
theorem witness_StackFaults :
    (0o3000#16 - 1).toNat < ((afterPush { bench 0 true [(0o47, 0o3000)] with sp := 0o3000 } 5).read 0o47).toNat ∧
      ((bench 0 true [(0o46, 0o4000)]).read 0o46).toNat < (0o4000#16 + 1).toNat := by decide

theorem witness_PushJumps :
    ((afterPush { bench 0 true [(0o47, 0o3777)] with sp := 0o4000 } 2).read 0o47).toNat ≤ (0o4000#16 - 1).toNat ∧
      (0o3000#16 - 1).toNat < ((afterPush { bench 0 true [(0o47, 0o3000)] with sp := 0o3000 } 2).read 0o47).toNat := by
  decide

theorem noGaps_of_nil (s : State) (h : s.inputs = []) (hd : s.dchServed = false := by rfl) : NoGaps s := by
  refine ⟨fun es rest e => ?_, hd⟩; rw [h] at e; cases e

/-- One word and the largest operand (NybbleShiftLeft, NybbleShiftRight). -/
theorem witness_NybbleShifts :
    ∀ a ∈ [0#16, 0o177777#16], ∃ (s : State) (n : Nat) (w : Nat → Word), NoGaps s ∧ FullAddresses s ∧ n = s.a0.toNat ∧
      s.a0 = a ∧ ∀ i, w i = s.read (s.a2 + BitVec.ofNat 16 i) :=
  fun a _ => ⟨{ State.reset with a0 := a }, a.toNat, _, noGaps_of_nil _ rfl, Or.inr rfl, rfl, rfl, fun _ => rfl⟩

theorem witness_DecimalArithmetic :
    ∃ s : State, s.a0 = toBcd 9999 ∧ s.a1 = toBcd 9999 ∧ s.c = true :=
  ⟨{ State.reset with a0 := toBcd 9999, a1 := toBcd 9999, c := true }, rfl, rfl, rfl⟩

theorem witness_InvalidDigitsRun :
    (∃ s : State, 9 < s.a0.toNat / 16 ^ 0 % 16) ∧ ∃ s : State, 9 < s.a1.toNat / 16 ^ 3 % 16 :=
  ⟨⟨{ State.reset with a0 := 0o12 }, by decide⟩, ⟨{ State.reset with a1 := 0o120000 }, by decide⟩⟩

/-- All digits with and without overflow, and a nybble of ten (ConvertStep). -/
theorem witness_ConvertStep :
    (∀ a1 ∈ [0#16, 0o177777#16], ∃ s : State, s.a1 = a1 ∧ s.a0 = 0o114631 ∧
      ∀ k, k < 4 → (0o114631#16).toNat / 16 ^ k % 16 ≤ 9) ∧
      ∃ s : State, 9 < s.a0.toNat / 16 ^ 3 % 16 :=
  ⟨fun a1 _ => ⟨{ State.reset with a0 := 0o114631, a1 := a1 }, rfl, rfl, by decide⟩,
    ⟨{ State.reset with a0 := 0o120000 }, by decide⟩⟩

/-- No parity error pending (PutBytes). -/
theorem witness_PutBytes : ∃ s : State, s.misread = none := ⟨State.reset, rfl⟩

theorem witness_VectoredAndBased : ∃ (s : State) (v : Word), v = s.read 1 := ⟨State.reset, 0, by decide⟩

/-- At the limit and one below it. -/
theorem witness_LimitedBytes :
    ∃ (s u : State) (p b : Word), s.misread = none ∧ p = s.a2 + (2#4).setWidth 16 ∧ b = s.read p ∧
      u = s.write p (b + 1) ∧ s.a1.toNat ≤ b.toNat ∧
    ∃ (s u : State) (p b : Word), s.misread = none ∧ p = s.a2 + (2#4).setWidth 16 ∧ b = s.read p ∧ u = s.write p (b + 1) ∧
      b.toNat < s.a1.toNat :=
  ⟨{ bench 0 true [(0o3002, 0o4000)] with a1 := 0o4000, a2 := 0o3000 }, _, 0o3002, 0o4000, rfl, by decide, by decide,
    rfl, by decide, { bench 0 true [(0o3002, 0o4000)] with a1 := 0o4001, a2 := 0o3000 }, _, 0o3002, 0o4000, rfl,
    by decide, by decide, rfl, by decide⟩

theorem witness_TranslateByte :
    ∀ k ∈ [TableBase.atPc, .afterPc], ∃ (s : State) (c t0 base : Word), s.cfg.tableBase = k ∧
      c.toNat = byteAt s (s.read 0o40#16) s.a1 ∧ (s.cfg.tableBase = .atPc → base = s.pc) ∧
      (s.cfg.tableBase = .afterPc → base = s.pc + 1) ∧ t0 = s.read (base + c) := by
  intro k hk
  cases k with
  | atPc =>
    exact ⟨{ State.reset with cfg := { Config.default with tableBase := .atPc } }, 0, 0, 0, rfl, by decide, by decide,
      by decide, by decide⟩
  | afterPc => exact ⟨State.reset, 0, 0, 1, rfl, by decide, by decide, by decide, by decide⟩

/-- Overlapping areas, upward and downward, and one word apart. -/
theorem witness_BlockMoves :
    ∃ s : State, NoGaps s ∧ FullAddresses s ∧ s.cfg.longPoints = .boundaryOnly ∧
      (s.a1.toNat ≤ s.a2.toNat ∧ s.a2.toNat + s.a0.toNat < 65536) ∧
      (s.a2.toNat ≤ s.a1.toNat ∧ s.a0.toNat ≤ s.a2.toNat) :=
  ⟨{ State.reset with a0 := 5, a1 := 0o2000, a2 := 0o2000 }, noGaps_of_nil _ rfl, Or.inr rfl, rfl, by decide, by decide⟩

theorem witness_BlockMoves_apart :
    ∃ s : State, s.a0 = 1 ∧ (∀ i ≤ 1, ∀ j ≤ 1, s.a2 + BitVec.ofNat 16 i ≠ s.a1 + BitVec.ofNat 16 j) ∧
      ∀ i ≤ 1, ∀ j ≤ 1, s.a2 - BitVec.ofNat 16 i ≠ s.a1 - BitVec.ofNat 16 j :=
  ⟨{ State.reset with a0 := 1, a1 := 0o2000, a2 := 0o2002 }, rfl, by decide, by decide⟩

/-- Found at once, found at the second word, missed at once, and endless. -/
theorem witness_TableSearch :
    (∃ s : State, NoGaps s ∧ s.cfg.longPoints = .boundaryOnly ∧ s.read s.a2 = s.a0) ∧
    (∃ s : State, s.read s.a2 ≠ s.a0 ∧ (s.a2 + s.a1).toNat < s.a3.toNat ∧ s.read (s.a2 + s.a1) = s.a0) ∧
    (∃ s : State, s.read s.a2 ≠ s.a0 ∧ s.a3.toNat ≤ (s.a2 + s.a1).toNat) ∧
    (∃ s : State, s.a1 = 0 ∧ s.read s.a2 ≠ s.a0 ∧ s.a2.toNat < s.a3.toNat) :=
  ⟨⟨State.reset, noGaps_of_nil _ rfl, rfl, by decide⟩,
    ⟨{ bench 0 true [(0o2001, 7)] with a0 := 7, a1 := 1, a2 := 0o2000, a3 := 0o2002 }, by decide, by decide, by decide⟩,
    ⟨{ State.reset with a0 := 7, a1 := 1, a2 := 0o2000, a3 := 0o2001 }, by decide, by decide⟩,
    ⟨{ State.reset with a0 := 7, a3 := 1 }, rfl, by decide, by decide⟩⟩

theorem witness_TraceRunsRemote :
    (∃ s : State, s.hung = none ∧
      oneStep (decode s.cfg.enc s.eis (s.read 0o2000) (s.read (0o2000 + 1))) = true) ∧
    (∃ s : State, s.hung = none ∧ decode s.cfg.enc s.eis (s.read 0o2000) (s.read (0o2000 + 1)) = .trace 0) ∧
    (∃ s : State, s.hung = none ∧ decode s.cfg.enc s.eis (s.read 0o2000) (s.read (0o2000 + 1)) = .halt .a0 .none) ∧
    (∃ (s s1 : State) (m : MemRef), s.hung = none ∧
      decode s.cfg.enc s.eis (s.read 0o2000) (s.read (0o2000 + 1)) = .jmp m ∧ m.ind = true ∧
      Reaches { s with xpc := s.pc + 1, pc := 0o2000 } m 0o3000 s1) ∧
    ∃ (s u : State), s.hung = none ∧ NoGaps s ∧ s.cfg.longPoints = .boundaryOnly ∧
      decode s.cfg.enc s.eis (s.read 0o2000) (s.read (0o2000 + 1)) = .tablsearch ∧
      exec .tablsearch { s with xpc := s.pc + 1, pc := 0o2000 } = .next u ∧ u.hung = none :=
  ⟨⟨bench 0 true [(0o2000, 0o101400)], rfl, by decide⟩,
    ⟨{ bench 0 true [(0o2000, 0o153271)] with cfg := { Config.default with enc := table } }, rfl, by decide⟩,
    ⟨bench 0 true [(0o2000, 0o63077)], rfl, by decide⟩,
    ⟨bench 0 true [(0o2000, 0o2005), (5, 0o3000)], _, ⟨true, .pageZero, 5⟩, rfl, by decide, rfl, rfl⟩,
    ⟨bench 0 true [(0o2000, 0o164271)], _, rfl, noGaps_of_nil _ rfl, rfl, by decide, rfl, rfl⟩⟩

theorem witness_StepRunsInstruction :
    (∀ w ∈ [none, some 0], ∃ s : State, s.run = true ∧ s.hung = none ∧ s.inputs = [] ∧ NoInterrupt s ∧ s.ahead = w ∧
      s.misread = none ∧ decodeWords s.cfg.enc s.eis [s.ahead.getD (s.read s.pc), s.read (s.pc + 1)] =
        .ok (.jmp ⟨false, .pageZero, 0⟩, [s.read (s.pc + 1)])) ∧
    (∃ s t : State, s.run = true ∧ s.hung = none ∧ s.inputs = [] ∧ NoInterrupt s ∧ s.misread ≠ none ∧
      decodeWords s.cfg.enc s.eis [s.ahead.getD (s.read s.pc), s.read (s.pc + 1)] =
        .ok (.jmp ⟨false, .pageZero, 0⟩, [s.read (s.pc + 1)]) ∧
      exec (.jmp ⟨false, .pageZero, 0⟩) { s with ahead := none, dchServed := false } = .next t) := by
  refine ⟨fun w hw => ⟨{ State.reset with ahead := w }, rfl, rfl, rfl, Or.inl rfl, rfl, rfl, ?_⟩,
    ⟨{ State.reset with misread := some (5, 7) }, _, rfl, rfl, rfl, Or.inl rfl, by decide, rfl, rfl⟩⟩
  fin_cases hw <;> rfl

/-- The other two ways in which no interrupt is taken. -/
theorem witness_NoInterrupt :
    NoInterrupt { State.reset with ion := true, ionPending := true, pwrFail := true } ∧
      NoInterrupt { State.reset with ion := true, devices := [{ Device.tto with intReq := true, intDisable := true }] } :=
  ⟨Or.inr (Or.inl rfl), Or.inr (Or.inr ⟨rfl, by decide⟩)⟩

theorem witness_InterruptEntry :
    (∃ s : State, s.run = true ∧ s.hung = none ∧ s.inputs = [] ∧ s.ion = true ∧ s.ionPending = false ∧
      (∃ d ∈ s.devices, d.intReq = true ∧ d.intDisable = false) ∧ s.cfg.vectorReading = .direct) ∧
    (∃ s : State, s.run = true ∧ s.hung = none ∧ s.inputs = [] ∧ s.ion = true ∧ s.ionPending = false ∧
      s.pwrFail = true ∧ s.cfg.vectorReading = .direct) :=
  ⟨⟨{ State.reset with ion := true, devices := [{ Device.tto with intReq := true }] }, rfl, rfl, rfl, rfl, rfl,
      ⟨_, List.mem_singleton.2 rfl, rfl, rfl⟩, rfl⟩,
    ⟨{ State.reset with ion := true, pwrFail := true }, rfl, rfl, rfl, rfl, rfl, rfl, rfl⟩⟩

theorem witness_InterruptDelay :
    (∃ t, exec (.inten .a0) State.reset = .next t ∧ t.hung = none ∧ setsIon (.inten .a0) = true) ∧
      ∃ t, exec (.ldi 5) State.reset = .next t ∧ t.hung = none ∧ setsIon (.ldi 5) = false :=
  ⟨⟨_, rfl, rfl, rfl⟩, ⟨_, rfl, rfl, rfl⟩⟩

/-- EIS off and on, in 32K mode and in 64K mode. -/
theorem witness_ReturnFromInterrupt :
    (∀ e ∈ [true, false], ∃ s : State, s.run = true ∧ s.hung = none ∧ s.inputs = [] ∧ s.ahead = none ∧
      s.misread = none ∧ s.ion = false ∧ s.eis = e ∧ s.read s.pc = 0o60177#16 ∧ s.read (s.pc + 1) = 0o2000#16 ∧
      (s.read 0).toNat < 32768) ∧
    ∃ s : State, s.run = true ∧ s.hung = none ∧ s.inputs = [] ∧ s.ahead = none ∧ s.misread = none ∧ s.ion = false ∧
      s.read s.pc = 0o60177#16 ∧ s.read (s.pc + 1) = 0o2000#16 ∧ s.mode64k = true := by
  refine ⟨fun e he => ⟨bench 0o400 e [(0, 0o77777), (0o400, 0o60177), (0o401, 0o2000)], ?_⟩,
    { bench 0o400 false [(0, 0o177777), (0o400, 0o60177), (0o401, 0o2000)] with mode64k := true }, by decide⟩
  fin_cases he <;> decide

theorem witness_StoppedProcessor :
    (∃ s : State, s.run = false ∧ s.inputs = []) ∧
      ∃ (s : State) (e : EnvEvent), s.run = false ∧ s.inputs = [.env e] :=
  ⟨⟨{ State.reset with run := false }, rfl, rfl⟩, ⟨{ State.reset with run := false, inputs := [.env .powerFailing] },
    .powerFailing, rfl, rfl⟩⟩

theorem witness_DataChannelInput :
    ∀ stale ∈ [true, false], ∀ p ∈ [true, false], ∀ d ∈ [true, false], ∀ r ∈ [true, false],
      ∃ (s : State) (x : Device),
      s.inputs = [.env (.dataChannel [.input x.code 0 5] stale)] ∧
      s.panels.power = .on ∧ s.run = r ∧ s.hung = none ∧ s.device? x.code = some x ∧ x.dch = true ∧ x.busy = true ∧
      s.pwrFail = p ∧ s.dchServed = d :=
  fun stale _ p _ d _ r _ =>
    ⟨{ State.reset with
        run := r, devices := [Device.tti, Device.tto, { unit25 with busy := true }], inputs := [.env (.dataChannel [.input 0o25 0 5] stale)]
        pwrFail := p, dchServed := d },
      { unit25 with busy := true }, rfl, rfl, rfl, rfl, rfl, rfl, rfl, rfl, rfl⟩

/-- The panel's switches are alive, with the processor running and stopped (StopContinueStart, ExamineAndDeposit). -/
theorem witness_panel :
    ∀ r ∈ [true, false], ∀ l ∈ [true, false], ∀ a : PanelAct, ∃ s : State, s.panels.power = .on ∧
      s.cfg.ocuPresent = true ∧ s.panels.ocuLocked = l ∧ s.inputs = [.panel a] ∧ s.run = r ∧ s.hung = none :=
  fun r _ l _ a => ⟨{ State.reset with run := r, inputs := [.panel a], panels := { State.reset.panels with ocuLocked := l } },
    rfl, rfl, rfl, rfl, rfl, rfl⟩

/-- Every switch that is dead under the lock, on a stopped processor that would otherwise heed it (StopContinueStart). -/
theorem witness_dead_switches :
    ∀ a ∈ [PanelAct.stop .ocu, .apl .ocu, .start, .instStep, .exam, .examNext, .examPrev, .dep true, .dep false, .depNext,
        .examAc .a0, .depAc .a3, .digit 7, .clearData, .set64k],
      deadUnderLock a = true ∧ ∃ s : State, s.panels.power = .on ∧ s.cfg.ocuPresent = true ∧ s.inputs = [.panel a] ∧
        s.panels.ocuLocked = true ∧ s.run = false := by
  intro a ha
  refine ⟨?_, { State.reset with
    run := false, inputs := [.panel a], panels := { State.reset.panels with ocuLocked := true } }, rfl, rfl, rfl, rfl, rfl⟩
  revert a; decide

/-- A parity error at a running processor (StopContinueStart). -/
theorem witness_parity :
    ∃ s : State, s.panels.power = .on ∧ s.cfg.ocuPresent = true ∧ s.inputs = [.parity (.data 5)] ∧
      s.cfg.parityOption = true ∧ s.run = true :=
  ⟨{ State.reset with inputs := [.parity (.data 5)], cfg := { Config.default with parityOption := true } },
    rfl, rfl, rfl, rfl, rfl⟩

theorem witness_OcuReset :
    ∃ s : State, s.inputs = [.panel .reset] ∧ s.panels.power = .on ∧ s.cfg.ocuPresent = true :=
  ⟨{ State.reset with inputs := [.panel .reset] }, rfl, rfl, rfl⟩

theorem witness_AplLoadsManip :
    ∃ s : State, s.inputs = [.panel (.apl .mini)] ∧ s.panels.power = .on ∧ s.panels.key = .on ∧ s.run = false ∧
      s.panels.selfTest = false ∧ s.panels.miniSwitches.toNat < 128 :=
  ⟨{ State.reset with
      run := false, inputs := [.panel (.apl .mini)]
      panels := { State.reset.panels with key := .on, miniSwitches := 127 } }, rfl, rfl, rfl, rfl, rfl, by decide⟩

theorem witness_PowerReturns :
    ∀ k ∈ [Key.on, .auto], ∀ v : PowerUp, ∃ s : State, s.inputs = [.powerRestored v] ∧ s.panels.power = .lost ∧
      s.cfg.batteryBackup = true ∧ s.panels.key = k ∧ s.panels.memKept = true :=
  fun k _ v => ⟨{ State.reset with
    inputs := [.powerRestored v], panels := { State.reset.panels with key := k, power := .lost } }, rfl, rfl, rfl, rfl, rfl⟩

theorem witness_StepKeepsInvariant : MachineInv State.reset ∧ ∃ t, step State.reset = .next t :=
  ⟨⟨Laws.reset_memory_wf, by decide, by decide, by decide, by decide⟩, ⟨_, rfl⟩⟩

end Sys2Proof.Tests
end

/-! The arithmetic and logical instructions (spec/41_arithmetic_logic.md): format ALU decoded and encoded (R86, R87), the
shared pipeline on 17-bit numbers (R140 to R142, R151 to R153), and the NOP-skip space (R154). -/

namespace Sys2Proof.Proofs

open Sys2Proof Sys2Proof.Machine Sys2Proof.Claims Sys2Proof.Laws

/-! ### Format ALU -/

@[simp] theorem ac_ofBits_bits (n : Ac) : Ac.ofBits n.bits = n := by cases n <;> rfl
@[simp] theorem shift_ofBits_bits (sh : Shift) : Shift.ofBits sh.bits = sh := by cases sh <;> rfl
@[simp] theorem carryBase_ofBits_bits (cy : CarryBase) : CarryBase.ofBits cy.bits = cy := by cases cy <;> rfl
@[simp] theorem skipTest_ofBits_bits (sk : SkipTest) : SkipTest.ofBits sk.bits = sk := by cases sk <;> rfl

/-- The instruction of each opcode of format ALU (R86). -/
def aluInstr (op : BitVec 3) (f : AluFields) : Instr :=
  match op with
  | 0b000#3 => .com f
  | 0b001#3 => .neg f
  | 0b010#3 => .mov f
  | 0b011#3 => .inc f
  | 0b100#3 => .adc f
  | 0b101#3 => .sub f
  | 0b110#3 => .add f
  | _ => .and_ f

/-- The ALU function of each opcode of format ALU (R143 to R150). -/
def aluFunction (op : BitVec 3) : Word → Word → AluOut :=
  match op with
  | 0b000#3 => aluCom
  | 0b001#3 => aluNeg
  | 0b010#3 => aluMov
  | 0b011#3 => aluInc
  | 0b100#3 => aluAdc
  | 0b101#3 => aluSub
  | 0b110#3 => aluAdd
  | _ => aluAnd

theorem decodeAlu_eq_aluInstr (w : Word) : decodeAlu w = aluInstr (field w 8 3) (decodeAluFields w) := by
  rfl

theorem exec_aluInstr (op : BitVec 3) (f : AluFields) (s : State) :
    exec (aluInstr op f) s = .next (aluRun (aluFunction op) f s) := by
  unfold aluInstr aluFunction
  split <;> rfl

/-- Where each field of format ALU lies in the word (R86). -/
theorem fields_encodeAlu (op : BitVec 3) (f : AluFields) :
    field (encodeAlu op f) 15 1 = 1#1 ∧ field (encodeAlu op f) 13 2 = f.acs.bits ∧
      field (encodeAlu op f) 11 2 = f.acd.bits ∧ field (encodeAlu op f) 8 3 = op ∧
      field (encodeAlu op f) 6 2 = f.sh.bits ∧ field (encodeAlu op f) 4 2 = f.cy.bits ∧
      field (encodeAlu op f) 3 1 = BitVec.ofBool f.nl ∧ field (encodeAlu op f) 0 3 = f.sk.bits := by
  unfold encodeAlu field
  refine ⟨?_, ?_, ?_, ?_, ?_, ?_, ?_, ?_⟩
  all_goals
    repeat rw [BitVec.extractLsb'_append_eq_of_le (by decide)]
  case refine_1 => rfl
  all_goals exact BitVec.extractLsb'_append_eq_right

/-- A one-bit field is that bit. -/
theorem getLsbD_of_field (w : Word) (k : Nat) (b : Bool) (h : field w k 1 = BitVec.ofBool b) : w.getLsbD k = b := by
  have hbit : (field w k 1).getLsbD 0 = w.getLsbD k := by simp
  rw [← hbit, h]; cases b <;> rfl

theorem getLsbD_encodeAlu_15 (op : BitVec 3) (f : AluFields) : (encodeAlu op f).getLsbD 15 = true :=
  getLsbD_of_field _ 15 true (fields_encodeAlu op f).1

theorem decodeAluFields_encodeAlu (op : BitVec 3) (f : AluFields) : decodeAluFields (encodeAlu op f) = f := by
  obtain ⟨-, hacs, hacd, -, hsh, hcy, hnl, hsk⟩ := fields_encodeAlu op f
  simp only [decodeAluFields, hacs, hacd, hsh, hcy, hsk, getLsbD_of_field _ 3 _ hnl, ac_ofBits_bits, shift_ofBits_bits,
    carryBase_ofBits_bits, skipTest_ofBits_bits]

/-- A word with its top bit set is of format ALU or, with EIS = 1 and in the NOP-skip space, an extended one (R81, R87). -/
theorem decode_of_top_bit (enc : EncTable) (eis : Bool) (w second : Word) (h : w.getLsbD 15 = true) :
    decode enc eis w second = if eis && nopSkipWord w then decodeEis enc w second else decodeAlu w := by
  have htop : (field w 13 3).getLsbD 2 = true := by simpa using h
  unfold decode
  split
  case h_5 => rfl
  all_goals next e => rw [e] at htop; exact absurd htop (by decide)

/-- With EIS = 0 every combination of opcode and fields decodes to its instruction, the NOP-skip space included (R86,
R154). -/
theorem decode_encodeAlu (enc : EncTable) (op : BitVec 3) (f : AluFields) (second : Word) :
    decode enc false (encodeAlu op f) second = aluInstr op f := by
  obtain ⟨-, -, -, hop, -⟩ := fields_encodeAlu op f
  rw [decode_of_top_bit enc false _ second (getLsbD_encodeAlu_15 op f), Bool.false_and, if_neg Bool.false_ne_true,
    decodeAlu_eq_aluInstr, hop, decodeAluFields_encodeAlu]

/-! ### The pipeline in numbers -/

/-- The 17-bit number of a result whose carry has the weight 65536 (R140, R151). -/
def num17 (o : AluOut) : Nat := o.cout.toNat * 65536 + o.r.toNat

theorem num17_mod (o : AluOut) : num17 o % 65536 = o.r.toNat := by
  have := o.r.isLt
  unfold num17; omega

theorem num17_div (o : AluOut) : num17 o / 65536 = o.cout.toNat := by
  have := o.r.isLt
  unfold num17; omega

theorem cout_iff_le_num17 (o : AluOut) : o.cout = true ↔ 65536 ≤ num17 o := by
  have := o.r.isLt
  cases h : o.cout
  · simp [num17, h]; omega
  · simp [num17, h]

theorem r_eq_zero_iff_num17_mod (o : AluOut) : o.r = 0#16 ↔ num17 o % 65536 = 0 := by
  rw [num17_mod, ← BitVec.toNat_inj]; rfl

/-- The sum of the adder is not cut off at 17 bits (R142). -/
theorem num17_adder (x y : Word) (k : Bool) : num17 (adder x y k) = x.toNat + y.toNat + k.toNat := by
  have hx := x.isLt; have hy := y.isLt; have hk := k.toNat_le
  simp only [num17, adder_r, adder_cout]
  by_cases h : 65536 ≤ x.toNat + y.toNat + k.toNat
  · simp [h]; omega
  · simp [h]; omega

theorem toNat_append_eq_add {m n : Nat} (x : BitVec m) (y : BitVec n) :
    (x ++ y).toNat = x.toNat * 2 ^ n + y.toNat := by
  rw [BitVec.toNat_append, ← Nat.shiftLeft_add_eq_or_of_lt y.isLt, Nat.shiftLeft_eq]

theorem toNat_getLsbD {n : Nat} (x : BitVec n) (k : Nat) : (x.getLsbD k).toNat = x.toNat / 2 ^ k % 2 :=
  Nat.toNat_testBit x.toNat k

/-- The shifter on numbers (R151). -/
theorem num17_shifter (sh : Shift) (r : Word) (carry : Bool) :
    num17 (shifter sh r carry) = shift17 sh (carry.toNat * 65536 + r.toNat) := by
  have hr := r.isLt; have hc := carry.toNat_le
  cases sh with
  | none => rfl
  | left | right | swap =>
    simp only [num17, shifter, shift17, toNat_append_eq_add, toNat_getLsbD, BitVec.toNat_ofBool, BitVec.extractLsb'_toNat,
      Nat.shiftRight_eq_div_pow]
    omega

/-- The skip test on the shifter's number (R153). -/
theorem skipTest_iff (sk : SkipTest) (o : AluOut) :
    skipTest sk o.r o.cout = true ↔ skips17 sk (num17 o) := by
  have hcarry : o.cout = false ↔ num17 o < 65536 := by
    rw [← Bool.not_eq_true, cout_iff_le_num17, Nat.not_le]
  cases sk <;> simp [skipTest, skips17, r_eq_zero_iff_num17_mod, cout_iff_le_num17, hcarry]

/-- The preselected carry complemented by the carry out (R141, R142). -/
theorem toNat_carrySelect_xor (cy : CarryBase) (c cout : Bool) :
    (carrySelect cy c ^^ cout).toNat = (carryBase cy c + cout.toNat) % 2 := by
  cases cy <;> cases c <;> cases cout <;> rfl

/-- The pipeline's outputs, from the number that the ALU function gives (R140). -/
theorem num17_aluOutputs (fn : Word → Word → AluOut) (f : AluFields) (s : State) :
    num17 (aluOutputs fn f s) = aluNumber f s (num17 (fn (s.ac f.acs) (s.ac f.acd))) := by
  simp only [aluOutputs, aluNumber, num17_shifter, toNat_carrySelect_xor, num17_mod, num17_div]

/-! ### What the pipeline changes -/

theorem ac_with_c (s : State) (b : Bool) (k : Ac) : ({ s with c := b } : State).ac k = s.ac k := by cases k <;> rfl

theorem pc_aluRun (fn : Word → Word → AluOut) (f : AluFields) (s : State) :
    (aluRun fn f s).pc =
      if skipTest f.sk (aluOutputs fn f s).r (aluOutputs fn f s).cout then s.pc + 2 else s.pc + 1 := by
  rw [aluRun_eq, pc_advance]
  cases f.nl <;> simp [BitVec.add_assoc]

theorem aluRun_loads (fn : Word → Word → AluOut) (f : AluFields) (s : State) (h : f.nl = false) :
    (aluRun fn f s).ac f.acd = (aluOutputs fn f s).r ∧ (aluRun fn f s).c = (aluOutputs fn f s).cout ∧
      AcsBut f.acd s (aluRun fn f s) := by
  rw [aluRun_eq, h]
  refine ⟨?_, rfl, fun k hk => ?_⟩
  · exact (ac_advance _ _ _ _).trans ((ac_with_c _ _ _).trans (ac_setAc_same s _ _))
  · exact (ac_advance _ _ _ _).trans ((ac_with_c _ _ _).trans (ac_setAc_other s _ k _ hk))

theorem aluRun_no_load (fn : Word → Word → AluOut) (f : AluFields) (s : State) (h : f.nl = true) :
    SameAcs s (aluRun fn f s) ∧ (aluRun fn f s).c = s.c := by
  rw [aluRun_eq, h]
  exact ⟨fun k => ac_advance s _ _ k, rfl⟩

theorem sameMemory_aluRun (fn : Word → Word → AluOut) (f : AluFields) (s : State) : SameMemory s (aluRun fn f s) := by
  intro b
  rw [aluRun_eq]
  cases f.nl <;> simp

theorem plain_aluRun (fn : Word → Word → AluOut) (f : AluFields) (s : State) : Plain s (aluRun fn f s) := by
  rw [aluRun_eq]
  cases f.nl <;> simp [Plain, SameFlags, SameSetting, SameDevices]

/-- Every instruction of format ALU runs the pipeline on the number its ALU function gives. -/
theorem aluDoes_aluInstr (op : BitVec 3) (f : AluFields) (s : State) :
    AluDoes (aluInstr op f) f s (num17 (aluFunction op (s.ac f.acs) (s.ac f.acd))) := by
  have hskip := skipTest_iff f.sk (aluOutputs (aluFunction op) f s)
  refine ⟨aluRun (aluFunction op) f s, exec_aluInstr op f s, fun hnl => ?_, aluRun_no_load _ f s, fun h => ?_, fun h => ?_,
    sameMemory_aluRun _ f s, plain_aluRun _ f s⟩
  · obtain ⟨hacd, hc, hacs⟩ := aluRun_loads (aluFunction op) f s hnl
    refine ⟨?_, ?_, hacs⟩
    · rw [hacd, ← num17_aluOutputs, num17_mod]
    · rw [hc, ← num17_aluOutputs, Bool.eq_iff_iff, decide_eq_true_iff]
      exact cout_iff_le_num17 _
  · rw [← num17_aluOutputs] at h
    rw [pc_aluRun, if_pos (hskip.2 h)]
  · rw [← num17_aluOutputs] at h
    rw [pc_aluRun, if_neg (mt hskip.1 h)]

theorem aluDoes_of_num17 (op : BitVec 3) (f : AluFields) (s : State) (total : Nat)
    (h : num17 (aluFunction op (s.ac f.acs) (s.ac f.acd)) = total) : AluDoes (aluInstr op f) f s total :=
  h ▸ aluDoes_aluInstr op f s

/-! ### The eight functions in numbers (R143 to R150) -/

theorem num17_aluCom (x d : Word) : num17 (aluCom x d) = 65535 - x.toNat := by
  simp [num17, aluCom]

theorem num17_aluNeg (x d : Word) : num17 (aluNeg x d) = 65536 - x.toNat := by
  have := x.isLt
  rw [aluNeg, num17_adder, BitVec.toNat_not]
  simp; omega

theorem num17_aluMov (x d : Word) : num17 (aluMov x d) = x.toNat := by
  simp [num17, aluMov]

theorem num17_aluInc (x d : Word) : num17 (aluInc x d) = x.toNat + 1 := num17_adder x 0 true

theorem num17_aluAdc (x d : Word) : num17 (aluAdc x d) = d.toNat + (65535 - x.toNat) := by
  rw [aluAdc, num17_adder, BitVec.toNat_not]; rfl

theorem num17_aluSub (x d : Word) : num17 (aluSub x d) = d.toNat + (65536 - x.toNat) := by
  have := x.isLt
  rw [aluSub, num17_adder, BitVec.toNat_not]
  simp; omega

theorem num17_aluAdd (x d : Word) : num17 (aluAdd x d) = d.toNat + x.toNat := num17_adder d x false

theorem num17_aluAnd (x d : Word) : num17 (aluAnd x d) = d.toNat &&& x.toNat := by
  simp [num17, aluAnd]

/-! ### The NOP-skip space (R87, R154) -/

theorem getLsbD_of_low_bits (w : Word) (b : BitVec 4) (h : w.extractLsb' 0 4 = b) (k : Nat) (hk : k < 4) :
    w.getLsbD k = b.getLsbD k := by
  rw [← h]; simp [hk]

/-- The model's mask test is R87's description of the NOP-skip space. -/
theorem nopSkipWord_iff (w : Word) :
    nopSkipWord w = true ↔ w.getLsbD 15 = true ∧ w.extractLsb' 0 4 = 0b1001#4 := by
  rw [nopSkipWord, beq_iff_eq]
  constructor
  · intro h
    have hbit (k : Nat) := congrArg (·.getLsbD k) h
    refine ⟨by simpa using hbit 15, BitVec.eq_of_getLsbD_eq fun k hk => ?_⟩
    have := hbit k
    interval_cases k <;> simpa using this
  · rintro ⟨htop, hlow⟩
    have h0 := getLsbD_of_low_bits w _ hlow 0 (by decide)
    have h1 := getLsbD_of_low_bits w _ hlow 1 (by decide)
    have h2 := getLsbD_of_low_bits w _ hlow 2 (by decide)
    have h3 := getLsbD_of_low_bits w _ hlow 3 (by decide)
    refine BitVec.eq_of_getLsbD_eq fun k hk => ?_
    interval_cases k <;> simp_all

theorem isAlu_decodeParam (enc : EncTable) (w second : Word) : isAlu (decodeParam enc w second) = false := by
  unfold decodeParam
  split
  · next op _ => cases op <;> rfl
  · rfl

theorem isAlu_decodeEisBit (enc : EncTable) (w second : Word) : isAlu (decodeEisBit enc w second) = false := by
  unfold decodeEisBit
  split
  case h_12 => exact isAlu_decodeParam enc w second
  all_goals rfl

theorem isAlu_decodeEisStack (enc : EncTable) (w second : Word) : isAlu (decodeEisStack enc w second) = false := by
  unfold decodeEisStack
  split
  case h_5 => exact isAlu_decodeParam enc w second
  all_goals rfl

theorem isAlu_decodeEisFull (enc : EncTable) (w second : Word) : isAlu (decodeEisFull enc w second) = false := by
  unfold decodeEisFull
  split
  case h_9 => exact isAlu_decodeParam enc w second
  all_goals rfl

/-- No leaf of the EIS decode tree is an arithmetic or logical instruction (R88). -/
theorem isAlu_decodeEis (enc : EncTable) (w second : Word) : isAlu (decodeEis enc w second) = false := by
  unfold decodeEis
  split
  case h_8 =>
    split
    · exact isAlu_decodeEisBit enc w second
    · exact isAlu_decodeEisStack enc w second
    · exact isAlu_decodeEisFull enc w second
    · exact isAlu_decodeParam enc w second
  all_goals rfl

/-- Read as format ALU, the four low bits 1001 are NL and SKP (R154). -/
theorem decodeAluFields_nopSkip (w : Word) (h : w.extractLsb' 0 4 = 0b1001#4) :
    (decodeAluFields w).nl = true ∧ (decodeAluFields w).sk = .skp := by
  have hsk : field w 0 3 = (w.extractLsb' 0 4).extractLsb' 0 3 :=
    (BitVec.extractLsb'_extractLsb'_of_le (by decide)).symm
  refine ⟨getLsbD_of_low_bits w _ h 3 (by decide), ?_⟩
  rw [decodeAluFields, hsk, h]; rfl

theorem decode_eis_of_not_nopSkipWord (enc : EncTable) (w second : Word) (h : nopSkipWord w = false) :
    decode enc true w second = decode enc false w second := by
  simp [decode, h]

/-! ### The obligations -/

/-- Settles O4: as format ALU the word has NL and SKP, so the pipeline only skips; with EIS = 1 the EIS decode tree takes
exactly these words. -/
theorem nopSkipWithoutEis : Obligations.NopSkipWithoutEis := by
  refine ⟨fun enc w second s htop hlow => ⟨?_, ?_⟩, fun enc w second h => ?_⟩
  · obtain ⟨hnl, hsk⟩ := decodeAluFields_nopSkip w hlow
    have hdec : decode enc false w second = aluInstr (field w 8 3) (decodeAluFields w) := by
      rw [decode_of_top_bit enc false w second htop, ← decodeAlu_eq_aluInstr]; rfl
    obtain ⟨hacs, hc⟩ := aluRun_no_load (aluFunction (field w 8 3)) (decodeAluFields w) s hnl
    refine ⟨_, by rw [hdec, exec_aluInstr], ?_, hacs, hc, sameMemory_aluRun _ _ s, plain_aluRun _ _ s⟩
    rw [pc_aluRun, hsk]; rfl
  · rw [decode_of_top_bit enc true w second htop, (nopSkipWord_iff w).2 ⟨htop, hlow⟩]
    exact isAlu_decodeEis enc w second
  · exact decode_eis_of_not_nopSkipWord enc w second (Bool.eq_false_iff.2 (mt (nopSkipWord_iff w).1 h))

/-- Settles O13, from the pipeline on the three functions' numbers; none has a carry out. -/
theorem logicalFunctions : Obligations.LogicalFunctions := by
  intro f s enc second
  exact ⟨decode_encodeAlu enc _ f second, decode_encodeAlu enc _ f second, decode_encodeAlu enc _ f second,
    aluDoes_of_num17 0b000#3 f s _ (num17_aluCom _ (s.ac f.acd)),
    aluDoes_of_num17 0b010#3 f s _ (num17_aluMov _ (s.ac f.acd)),
    aluDoes_of_num17 0b111#3 f s _ (num17_aluAnd _ (s.ac f.acd))⟩

/-- Settles O14, from the pipeline on the five sums in 17 bits. -/
theorem arithmeticFunctions : Obligations.ArithmeticFunctions := by
  intro f s enc second
  exact ⟨decode_encodeAlu enc _ f second, decode_encodeAlu enc _ f second, decode_encodeAlu enc _ f second,
    decode_encodeAlu enc _ f second, decode_encodeAlu enc _ f second,
    aluDoes_of_num17 0b001#3 f s _ (num17_aluNeg _ (s.ac f.acd)),
    aluDoes_of_num17 0b011#3 f s _ (num17_aluInc _ (s.ac f.acd)),
    aluDoes_of_num17 0b100#3 f s _ (num17_aluAdc _ (s.ac f.acd)),
    aluDoes_of_num17 0b101#3 f s _ (num17_aluSub _ (s.ac f.acd)),
    aluDoes_of_num17 0b110#3 f s _ (num17_aluAdd _ (s.ac f.acd))⟩

end Sys2Proof.Proofs

/-! The skip instructions of device 77 (spec/43_io_cpu.md R212 to R215): format IO decoded and encoded (R85), and what a
test of ION or PWRFAIL changes. -/

namespace Sys2Proof.Proofs

open Sys2Proof Sys2Proof.Machine Sys2Proof.Claims Sys2Proof.Laws

/-! ### Format IO -/

@[simp] theorem ctrl_ofBits_bits (f : Ctrl) : Ctrl.ofBits f.bits = f := by cases f <;> rfl

/-- Where each field of format IO lies in the word (R85). -/
theorem fields_encodeIo (ac : Ac) (op : BitVec 3) (f : Ctrl) (d : DevCode) :
    field (encodeIo ac op f d) 13 3 = 0b011#3 ∧ field (encodeIo ac op f d) 11 2 = ac.bits ∧
      field (encodeIo ac op f d) 8 3 = op ∧ field (encodeIo ac op f d) 6 2 = f.bits ∧
      field (encodeIo ac op f d) 0 6 = d := by
  unfold encodeIo field
  refine ⟨?_, ?_, ?_, ?_, ?_⟩
  all_goals
    repeat rw [BitVec.extractLsb'_append_eq_of_le (by decide)]
  case refine_1 => rfl
  all_goals exact BitVec.extractLsb'_append_eq_right

/-- A word of format IO is an I/O instruction whatever EIS is (R81). -/
theorem decode_encodeIo (enc : EncTable) (eis : Bool) (ac : Ac) (op : BitVec 3) (f : Ctrl) (d : DevCode) (second : Word) :
    decode enc eis (encodeIo ac op f d) second = decodeIo (encodeIo ac op f d) := by
  obtain ⟨htop, -⟩ := fields_encodeIo ac op f d
  unfold decode
  rw [htop]
  rfl

/-- The code-77 rows take precedence over the generic rows (R85). -/
theorem decodeIo_encodeIo_cpu (ac : Ac) (op : BitVec 3) (f : Ctrl) :
    decodeIo (encodeIo ac op f cpuCode) = decodeIoCpu (encodeIo ac op f cpuCode) := by
  obtain ⟨-, -, -, -, hcode⟩ := fields_encodeIo ac op f cpuCode
  unfold decodeIo
  rw [hcode, if_pos (beq_self_eq_true cpuCode)]

/-! ### The skips on device 77 -/

/-- The skip instruction of device 77 that each CTRL field selects (R212 to R215). -/
def cpuSkip (ac : Ac) : Ctrl → Instr
  | .none => .skpbnCpu ac
  | .s => .skpbzCpu ac
  | .c => .skpdnCpu ac
  | .p => .skpdzCpu ac

/-- What each CTRL field tests on device 77: Busy is ION, Done is PWRFAIL (R212 to R215). -/
def cpuSkipTest (s : State) : Ctrl → Bool
  | .none => s.ion
  | .s => !s.ion
  | .c => s.pwrFail
  | .p => !s.pwrFail

theorem decode_encodeIo_cpuSkip (enc : EncTable) (eis : Bool) (ac : Ac) (f : Ctrl) (second : Word) :
    decode enc eis (encodeIo ac 0b111#3 f cpuCode) second = cpuSkip ac f := by
  obtain ⟨-, hac, hop, hf, -⟩ := fields_encodeIo ac 0b111#3 f cpuCode
  rw [decode_encodeIo, decodeIo_encodeIo_cpu]
  unfold decodeIoCpu
  rw [hop, hac, hf, ac_ofBits_bits, ctrl_ofBits_bits]
  cases f <;> rfl

theorem exec_cpuSkip (ac : Ac) (f : Ctrl) (s : State) :
    exec (cpuSkip ac f) s = .next (s.cpuTested f (cpuSkipTest s f)) := by
  cases f <;> rfl

theorem ioFrame_cpuTested (s : State) (f : Ctrl) (skips : Bool) : IoFrame s (s.cpuTested f skips) := by
  simp [IoFrame, SameFlags, SameSetting, SameMemory]

/-- A skip instruction of device 77 skips by its test; besides pc and ION_PENDING only the record changes (R377). -/
theorem ioSkips_cpuSkip (ac : Ac) (f : Ctrl) (s : State) (test : Prop) (htest : cpuSkipTest s f = true ↔ test) :
    IoSkips (cpuSkip ac f) cpuCode f test s := by
  refine ⟨s.cpuTested f (cpuSkipTest s f), exec_cpuSkip ac f s, fun h => ?_, fun h => ?_, fun k => ac_cpuTested s f _ k,
    devices_cpuTested s f _, ioTrace_cpuTested s f _, ioFrame_cpuTested s f _⟩
  · rw [pc_cpuTested, if_pos (htest.2 h), BitVec.add_assoc]; rfl
  · rw [pc_cpuTested, if_neg (mt htest.1 h)]

/-! ### The obligation -/

/-- Settles O25: each word decodes to the skip of its CTRL field, and that skip's test is the flag named. -/
theorem processorSkips : Obligations.ProcessorSkips := by
  intro ac s enc eis second
  exact ⟨decode_encodeIo_cpuSkip enc eis ac .none second, decode_encodeIo_cpuSkip enc eis ac .s second,
    decode_encodeIo_cpuSkip enc eis ac .c second, decode_encodeIo_cpuSkip enc eis ac .p second,
    ioSkips_cpuSkip ac .none s _ Iff.rfl, ioSkips_cpuSkip ac .s s _ (Iff.of_eq (Bool.not_eq_true' _)),
    ioSkips_cpuSkip ac .c s _ Iff.rfl, ioSkips_cpuSkip ac .p s _ (Iff.of_eq (Bool.not_eq_true' _))⟩

end Sys2Proof.Proofs

/-! The extended immediate instructions (spec/44_eis_immediate_bit.md R232 to R238): format EI decoded and encoded (R89),
the compares on 16-bit numbers, and what an addition to A0 changes. -/

namespace Sys2Proof.Proofs

open Sys2Proof Sys2Proof.Machine Sys2Proof.Claims Sys2Proof.Laws

/-! ### Format EI -/

/-- The instruction of each KIND and opcode of format EI; with KIND = 1 the opcode 11 is of the other formats (R88, R89). -/
def immediateInstr (kind : Bool) (op : BitVec 2) (k : BitVec 8) : Option Instr :=
  match kind, op with
  | false, 0b00#2 => some (.slei k)
  | false, 0b01#2 => some (.sgri k)
  | false, 0b10#2 => some (.seqi k)
  | false, 0b11#2 => some (.snei k)
  | true, 0b00#2 => some (.ldi k)
  | true, 0b01#2 => some (.adi k)
  | true, 0b10#2 => some (.sbi k)
  | _, _ => none

/-- Where each field of format EI lies in the word (R89). -/
theorem fields_encodeEi (kind : Bool) (k : BitVec 8) (op : BitVec 2) :
    field (encodeEi kind k op) 15 1 = 1#1 ∧ field (encodeEi kind k op) 14 1 = BitVec.ofBool kind ∧
      field (encodeEi kind k op) 6 8 = k ∧ field (encodeEi kind k op) 4 2 = op ∧
      field (encodeEi kind k op) 0 4 = 0b1001#4 := by
  unfold encodeEi field
  refine ⟨?_, ?_, ?_, ?_, ?_⟩
  all_goals
    repeat rw [BitVec.extractLsb'_append_eq_of_le (by decide)]
  case refine_1 => rfl
  all_goals exact BitVec.extractLsb'_append_eq_right

/-- With EIS = 1 a word of format EI is an extended instruction (R87). -/
theorem decode_encodeEi (enc : EncTable) (kind : Bool) (k : BitVec 8) (op : BitVec 2) (second : Word) :
    decode enc true (encodeEi kind k op) second = decodeEis enc (encodeEi kind k op) second := by
  obtain ⟨hone, -, -, -, hlow⟩ := fields_encodeEi kind k op
  have htop : (encodeEi kind k op).getLsbD 15 = true := getLsbD_of_field _ 15 true hone
  rw [decode_of_top_bit enc true _ second htop, (nopSkipWord_iff _).2 ⟨htop, hlow⟩]
  rfl

theorem decode_encodeEi_of_immediateInstr (enc : EncTable) (kind : Bool) (k : BitVec 8) (op : BitVec 2) (second : Word)
    (i : Instr) (h : immediateInstr kind op k = some i) : decode enc true (encodeEi kind k op) second = i := by
  obtain ⟨-, hkind, hk, hop, -⟩ := fields_encodeEi kind k op
  rw [decode_encodeEi]
  unfold decodeEis
  rw [getLsbD_of_field _ 14 kind hkind, hk, hop]
  unfold immediateInstr at h
  split at h
  case h_8 => exact absurd h (Option.some_ne_none i).symm
  all_goals exact Option.some.inj h

/-! ### The constant -/

theorem toNat_zext16 (k : BitVec 8) : (zext16 k).toNat = k.toNat :=
  BitVec.toNat_setWidth_of_le (by decide)

theorem eq_zext16_iff (x : Word) (k : BitVec 8) : x = zext16 k ↔ x.toNat = k.toNat := by
  rw [← BitVec.toNat_inj, toNat_zext16]

/-! ### The compares (R232 to R235) -/

theorem plain_advance (s : State) (len : Word) (skips : Bool) : Plain s (s.advance len skips) := by
  simp [Plain, SameFlags, SameSetting, SameDevices]

/-- An instruction of one word that only advances is a skip by the Boolean it advances with. -/
theorem skipsWhen_of_exec_eq_advance (i : Instr) (s : State) (skips : Bool) (test : Prop)
    (hexec : exec i s = .next (s.advance 1 skips)) (htest : skips = true ↔ test) : SkipsWhen i test s := by
  refine ⟨s.advance 1 skips, hexec, fun h => ?_, fun h => ?_, fun k => ac_advance s 1 skips k, rfl, fun _ => rfl,
    plain_advance s 1 skips⟩
  · rw [pc_advance, if_pos (htest.2 h), BitVec.add_assoc]; rfl
  · rw [pc_advance, if_neg (mt htest.1 h)]

theorem skipsWhen_slei (k : BitVec 8) (s : State) : SkipsWhen (.slei k) (s.a0.toNat ≤ k.toNat) s :=
  skipsWhen_of_exec_eq_advance _ s (s.a0 ≤ zext16 k) _ rfl (by rw [decide_eq_true_iff, BitVec.le_def, toNat_zext16])

theorem skipsWhen_sgri (k : BitVec 8) (s : State) : SkipsWhen (.sgri k) (k.toNat < s.a0.toNat) s :=
  skipsWhen_of_exec_eq_advance _ s (zext16 k < s.a0) _ rfl (by rw [decide_eq_true_iff, BitVec.lt_def, toNat_zext16])

theorem skipsWhen_seqi (k : BitVec 8) (s : State) : SkipsWhen (.seqi k) (s.a0.toNat = k.toNat) s :=
  skipsWhen_of_exec_eq_advance _ s (s.a0 == zext16 k) _ rfl (by rw [beq_iff_eq, eq_zext16_iff])

theorem skipsWhen_snei (k : BitVec 8) (s : State) : SkipsWhen (.snei k) (s.a0.toNat ≠ k.toNat) s :=
  skipsWhen_of_exec_eq_advance _ s (s.a0 != zext16 k) _ rfl (by rw [bne_iff_ne, Ne, eq_zext16_iff])

/-! ### An addition to A0 (R236 to R238) -/

theorem a0_addToA0 (s : State) (o : AluOut) : (s.addToA0 o).a0 = o.r := rfl
theorem c_addToA0 (s : State) (o : AluOut) : (s.addToA0 o).c = (s.c ^^ o.cout) := rfl
theorem pc_addToA0 (s : State) (o : AluOut) : (s.addToA0 o).pc = s.pc + 1 := rfl

theorem acsBut_addToA0 (s : State) (o : AluOut) : AcsBut .a0 s (s.addToA0 o) := by
  intro k hk
  cases k with
  | a0 => exact absurd rfl hk
  | a1 | a2 | a3 => rfl

theorem plain_addToA0 (s : State) (o : AluOut) : Plain s (s.addToA0 o) := by
  simp [State.addToA0, Plain, SameFlags, SameSetting, SameDevices]

/-- LDI loads A0 as a MOV of the constant would: no carry out, so the carry is not toggled (R236). -/
theorem exec_ldi (k : BitVec 8) (s : State) : exec (.ldi k) s = .next (s.addToA0 (aluMov (zext16 k) s.a0)) := by
  have hc : (s.c ^^ (aluMov (zext16 k) s.a0).cout) = s.c := Bool.xor_false s.c
  rw [State.addToA0, hc]
  rfl

theorem exec_adi (k : BitVec 8) (s : State) : exec (.adi k) s = .next (s.addToA0 (aluAdd (zext16 k) s.a0)) := rfl

theorem exec_sbi (k : BitVec 8) (s : State) : exec (.sbi k) s = .next (s.addToA0 (aluSub (zext16 k) s.a0)) := rfl

/-- `n` is the new A0 and `toggles` says whether the carry is toggled; nothing else changes but the pc (R236 to R238). -/
def AddsToA0 (i : Instr) (n : Nat) (toggles : Bool) (s : State) : Prop :=
  ∃ t, exec i s = .next t ∧ t.a0.toNat = n ∧ t.c = (s.c ^^ toggles) ∧ AcsBut .a0 s t ∧ t.pc = s.pc + 1 ∧
    SameMemory s t ∧ Plain s t

/-- The 17-bit number of the result gives the new A0, and by its carry out whether the carry is toggled. -/
theorem addsToA0_of_num17 (i : Instr) (s : State) (o : AluOut) (total : Nat) (hexec : exec i s = .next (s.addToA0 o))
    (htotal : num17 o = total) : AddsToA0 i (total % 65536) (decide (65536 ≤ total)) s := by
  have hcout : o.cout = decide (65536 ≤ total) := by
    rw [Bool.eq_iff_iff, cout_iff_le_num17, htotal, decide_eq_true_iff]
  refine ⟨s.addToA0 o, hexec, ?_, ?_, acsBut_addToA0 s o, pc_addToA0 s o, fun _ => rfl, plain_addToA0 s o⟩
  · rw [a0_addToA0, ← num17_mod, htotal]
  · rw [c_addToA0, hcout]

theorem addsToA0_ldi (k : BitVec 8) (s : State) : AddsToA0 (.ldi k) k.toNat false s := by
  have hk := k.isLt
  have hmod : k.toNat % 65536 = k.toNat := by omega
  have hcarry : decide (65536 ≤ k.toNat) = false := decide_eq_false (by omega)
  have hadds := addsToA0_of_num17 _ s _ k.toNat (exec_ldi k s) (by rw [num17_aluMov, toNat_zext16])
  rwa [hmod, hcarry] at hadds

theorem addsToA0_adi (k : BitVec 8) (s : State) :
    AddsToA0 (.adi k) ((s.a0.toNat + k.toNat) % 65536) (decide (65536 ≤ s.a0.toNat + k.toNat)) s :=
  addsToA0_of_num17 _ s _ _ (exec_adi k s) (by rw [num17_aluAdd, toNat_zext16])

/-- The addition of the complement carries out exactly when no borrow occurs (R238). -/
theorem addsToA0_sbi (k : BitVec 8) (s : State) :
    AddsToA0 (.sbi k) ((s.a0.toNat + 65536 - k.toNat) % 65536) (decide (k.toNat ≤ s.a0.toNat)) s := by
  have hk := k.isLt
  have htotal : num17 (aluSub (zext16 k) s.a0) = s.a0.toNat + 65536 - k.toNat := by
    rw [num17_aluSub, toNat_zext16]; omega
  have hborrow : 65536 ≤ s.a0.toNat + 65536 - k.toNat ↔ k.toNat ≤ s.a0.toNat := by omega
  rw [← decide_eq_decide.2 hborrow]
  exact addsToA0_of_num17 _ s _ _ (exec_sbi k s) htotal

/-! ### The obligations -/

/-- Settles O27: each word is of format EI, and each compare only advances, by its test on the 16-bit numbers. -/
theorem immediateCompares : Obligations.ImmediateCompares := by
  intro k s enc second
  exact ⟨decode_encodeEi_of_immediateInstr enc false k 0b00#2 second _ rfl,
    decode_encodeEi_of_immediateInstr enc false k 0b01#2 second _ rfl,
    decode_encodeEi_of_immediateInstr enc false k 0b10#2 second _ rfl,
    decode_encodeEi_of_immediateInstr enc false k 0b11#2 second _ rfl,
    skipsWhen_slei k s, skipsWhen_sgri k s, skipsWhen_seqi k s, skipsWhen_snei k s⟩

/-- Settles O28: each word is of format EI, and the three instructions add to A0 the numbers of MOV, ADD and SUB. -/
theorem immediateArithmetic : Obligations.ImmediateArithmetic := by
  intro k s enc second
  have hldi := addsToA0_ldi k s
  rw [AddsToA0, Bool.xor_false] at hldi
  exact ⟨decode_encodeEi_of_immediateInstr enc true k 0b00#2 second _ rfl,
    decode_encodeEi_of_immediateInstr enc true k 0b01#2 second _ rfl,
    decode_encodeEi_of_immediateInstr enc true k 0b10#2 second _ rfl,
    hldi, addsToA0_adi k s, addsToA0_sbi k s⟩

end Sys2Proof.Proofs

/-! Access to the stack pointer (spec/45_eis_stack.md R262, R263): format ES decoded and encoded (R91), and what SETSP and
REDSP change. -/

namespace Sys2Proof.Proofs

open Sys2Proof Sys2Proof.Machine Sys2Proof.Claims Sys2Proof.Laws

/-! ### Format ES -/

/-- The instruction of each M and DIR of format ES; the other values of DIR are left to the parametric table (R91). -/
def stackInstr (m : Bool) (dir : BitVec 3) (ac : Ac) : Option Instr :=
  match m, dir with
  | false, 0b100#3 => some (.setsp ac)
  | false, 0b000#3 => some (.redsp ac)
  | true, 0b100#3 => some (.push ac)
  | true, 0b000#3 => some (.pop ac)
  | _, _ => none

/-- Where M, AC and DIR lie in a word of format ES (R91). -/
theorem fields_encodeEs (m : Bool) (ac : Ac) (dir : BitVec 3) :
    field (encodeEs m ac dir) 13 1 = BitVec.ofBool m ∧ field (encodeEs m ac dir) 11 2 = ac.bits ∧
      field (encodeEs m ac dir) 8 3 = dir := by
  unfold encodeEs field
  refine ⟨?_, ?_, ?_⟩
  all_goals
    repeat rw [BitVec.extractLsb'_append_eq_of_le (by decide)]
  all_goals exact BitVec.extractLsb'_append_eq_right

/-- The fixed bits of format ES, by which the decode tree reaches it (R87, R88, R91). -/
theorem fixedFields_encodeEs (m : Bool) (ac : Ac) (dir : BitVec 3) :
    field (encodeEs m ac dir) 15 1 = 1#1 ∧ field (encodeEs m ac dir) 14 1 = 1#1 ∧
      field (encodeEs m ac dir) 6 2 = 0b01#2 ∧ field (encodeEs m ac dir) 4 2 = 0b11#2 ∧
      field (encodeEs m ac dir) 0 4 = 0b1001#4 := by
  unfold encodeEs field
  refine ⟨?_, ?_, ?_, ?_, ?_⟩
  case refine_1 | refine_2 =>
    repeat rw [BitVec.extractLsb'_append_eq_of_le (by decide)]
    rfl
  all_goals
    rw [BitVec.extractLsb'_append_eq_of_add_le (by decide)]
    rfl

/-- With EIS = 1 a word of format ES is an extended instruction, of the stack group (R87, R88). -/
theorem decode_encodeEs (enc : EncTable) (m : Bool) (ac : Ac) (dir : BitVec 3) (second : Word) :
    decode enc true (encodeEs m ac dir) second = decodeEisStack enc (encodeEs m ac dir) second := by
  obtain ⟨hone, hkind, hgroup, hop, hlow⟩ := fixedFields_encodeEs m ac dir
  have htop : (encodeEs m ac dir).getLsbD 15 = true := getLsbD_of_field _ 15 true hone
  rw [decode_of_top_bit enc true _ second htop, (nopSkipWord_iff _).2 ⟨htop, hlow⟩, Bool.true_and, if_pos rfl]
  unfold decodeEis
  rw [getLsbD_of_field _ 14 true hkind, hop, hgroup]
  rfl

theorem decode_encodeEs_of_stackInstr (enc : EncTable) (m : Bool) (ac : Ac) (dir : BitVec 3) (second : Word)
    (i : Instr) (h : stackInstr m dir ac = some i) : decode enc true (encodeEs m ac dir) second = i := by
  obtain ⟨hm, hac, hdir⟩ := fields_encodeEs m ac dir
  rw [decode_encodeEs]
  unfold decodeEisStack
  rw [getLsbD_of_field _ 13 m hm, hac, hdir, ac_ofBits_bits]
  unfold stackInstr at h
  split at h
  case h_5 => exact absurd h (Option.some_ne_none i).symm
  all_goals exact Option.some.inj h

/-! ### What changes -/

theorem exec_setsp (ac : Ac) (s : State) :
    exec (.setsp ac) s = .next (({ s with sp := s.ac ac } : State).advance 1 false) := rfl

theorem exec_redsp (ac : Ac) (s : State) : exec (.redsp ac) s = .next ((s.setAc ac s.sp).advance 1 false) := rfl

theorem ac_with_sp (s : State) (v : Word) (k : Ac) : ({ s with sp := v } : State).ac k = s.ac k := by cases k <;> rfl

theorem sameAcs_with_sp_advance (s : State) (v len : Word) (skips : Bool) :
    SameAcs s (({ s with sp := v } : State).advance len skips) :=
  fun k => (ac_advance _ len skips k).trans (ac_with_sp s v k)

theorem acsBut_setAc_advance (s : State) (n : Ac) (v len : Word) (skips : Bool) :
    AcsBut n s ((s.setAc n v).advance len skips) :=
  fun k hk => (ac_advance _ len skips k).trans (ac_setAc_other s n k v hk)

theorem plainStack_with_sp_advance (s : State) (v len : Word) (skips : Bool) :
    PlainStack s (({ s with sp := v } : State).advance len skips) := by
  simp [PlainStack, SameFlags, SameSetting, SameDevices]

theorem plainStack_setAc_advance (s : State) (n : Ac) (v len : Word) (skips : Bool) :
    PlainStack s ((s.setAc n v).advance len skips) := by
  simp [PlainStack, SameFlags, SameSetting, SameDevices]

/-- SETSP loads SP; no other register is affected (R262). -/
theorem setsp_loads_sp (ac : Ac) (s : State) :
    ∃ t, exec (.setsp ac) s = .next t ∧ t.sp = s.ac ac ∧ SameAcs s t ∧ t.c = s.c ∧ t.pc = s.pc + 1 ∧
      SameMemory s t ∧ PlainStack s t :=
  ⟨_, exec_setsp ac s, sp_advance _ _ _, sameAcs_with_sp_advance s _ _ _, c_advance _ _ _, pc_advance _ _ _,
    fun _ => rfl, plainStack_with_sp_advance s _ _ _⟩

/-- REDSP copies SP into the accumulator; no other register is affected (R263). -/
theorem redsp_copies_sp (ac : Ac) (s : State) :
    ∃ t, exec (.redsp ac) s = .next t ∧ t.ac ac = s.sp ∧ t.sp = s.sp ∧ AcsBut ac s t ∧ t.c = s.c ∧
      t.pc = s.pc + 1 ∧ SameMemory s t ∧ PlainStack s t := by
  refine ⟨_, exec_redsp ac s, ?_, ?_, acsBut_setAc_advance s _ _ _ _, ?_, ?_, fun b => ?_,
    plainStack_setAc_advance s _ _ _ _⟩
  · rw [ac_advance, ac_setAc_same]
  · rw [sp_advance, sp_setAc]
  · rw [c_advance, c_setAc]
  · rw [pc_advance, if_neg Bool.false_ne_true, pc_setAc]
  · rw [mem_advance, mem_setAc]

/-! ### The obligation -/

/-- Settles O30: both words are of format ES, SETSP is an assignment to SP and REDSP one to the accumulator. -/
theorem stackPointerAccess : Obligations.StackPointerAccess := by
  intro ac s enc second
  exact ⟨decode_encodeEs_of_stackInstr enc false ac 0b100#3 second _ rfl,
    decode_encodeEs_of_stackInstr enc false ac 0b000#3 second _ rfl, setsp_loads_sp ac s, redsp_copies_sp ac s⟩

end Sys2Proof.Proofs

/-! The vectored subroutine jump and the extended load and store (spec/46_eis_nybble_loadstore_vjsr.md R287 to R289): format
EX decoded and encoded (R92), the place of a vector in its table, and what each of the three changes. -/

namespace Sys2Proof.Proofs

open Sys2Proof Sys2Proof.Machine Sys2Proof.Claims Sys2Proof.Laws

/-! ### Format EX -/

/-- The instruction of each opcode of format EX; the other opcodes are left to the parametric table (R92). -/
def fullInstr (op : BitVec 6) (second : Word) : Option Instr :=
  match op with
  | 0b000000#6 => some .popjump
  | 0b000100#6 => some (.pushjump second)
  | 0b000101#6 => some (.rpushjump second)
  | 0b000110#6 => some (.i2pushjump second)
  | 0b000111#6 => some (.i3pushjump second)
  | 0b011000#6 => some .xload
  | 0b011100#6 => some .xstore
  | 0b101000#6 => some .tablsearch
  | _ => none

/-- Where the opcode and the fixed bits, by which the decode tree reaches it, lie in a word of format EX (R87, R88, R92). -/
theorem fields_encodeEx (op : BitVec 6) :
    field (encodeEx op) 15 1 = 1#1 ∧ field (encodeEx op) 14 1 = 1#1 ∧ field (encodeEx op) 8 6 = op ∧
      field (encodeEx op) 6 2 = 0b10#2 ∧ field (encodeEx op) 4 2 = 0b11#2 ∧ field (encodeEx op) 0 4 = 0b1001#4 := by
  unfold encodeEx field
  refine ⟨?_, ?_, ?_, ?_, ?_, ?_⟩
  case refine_1 | refine_2 =>
    repeat rw [BitVec.extractLsb'_append_eq_of_le (by decide)]
    rfl
  case refine_3 =>
    rw [BitVec.extractLsb'_append_eq_of_le (by decide)]
    exact BitVec.extractLsb'_append_eq_right
  all_goals
    rw [BitVec.extractLsb'_append_eq_of_add_le (by decide)]
    rfl

/-- With EIS = 1 a word of format EX is an extended instruction, of the full-opcode group (R87, R88). -/
theorem decode_encodeEx (enc : EncTable) (op : BitVec 6) (second : Word) :
    decode enc true (encodeEx op) second = decodeEisFull enc (encodeEx op) second := by
  obtain ⟨hone, hkind, -, hgroup, hop, hlow⟩ := fields_encodeEx op
  have htop : (encodeEx op).getLsbD 15 = true := getLsbD_of_field _ 15 true hone
  rw [decode_of_top_bit enc true _ second htop, (nopSkipWord_iff _).2 ⟨htop, hlow⟩, Bool.true_and, if_pos rfl]
  unfold decodeEis
  rw [getLsbD_of_field _ 14 true hkind, hop, hgroup]
  rfl

theorem decode_encodeEx_of_fullInstr (enc : EncTable) (op : BitVec 6) (second : Word) (i : Instr)
    (h : fullInstr op second = some i) : decode enc true (encodeEx op) second = i := by
  obtain ⟨-, -, hop, -⟩ := fields_encodeEx op
  rw [decode_encodeEx]
  unfold decodeEisFull
  rw [hop]
  unfold fullInstr at h
  split at h
  case h_9 => exact absurd h (Option.some_ne_none i).symm
  all_goals exact Option.some.inj h

/-! ### The vector table -/

/-- The vector of number `k` lies `k + 1` words before `v`, in addresses of 16 bits (R287). -/
theorem ofInt_vector_eq_sub (v : Word) (k : BitVec 5) :
    BitVec.ofInt 16 ((v.toNat : Int) - k.toNat - 1) = v - k.setWidth 16 - 1 := by
  have hk := k.isLt
  have hv := v.isLt
  have hone : (1 : Word).toNat = 1 := rfl
  apply BitVec.eq_of_toNat_eq
  rw [BitVec.toNat_ofInt, BitVec.toNat_sub, BitVec.toNat_sub, BitVec.toNat_setWidth, hone]
  omega

/-! ### An accumulator is loaded -/

theorem acsBut_setAc_complete (s : State) (n : Ac) (v next : Word) : AcsBut n s ((s.setAc n v).complete next) :=
  fun k hk => (ac_complete _ next k).trans (ac_setAc_other s n k v hk)

theorem sameMemory_setAc_complete (s : State) (n : Ac) (v next : Word) :
    SameMemory s ((s.setAc n v).complete next) := by
  intro b
  rw [mem_complete, mem_setAc]

theorem plain_setAc_complete (s : State) (n : Ac) (v next : Word) : Plain s ((s.setAc n v).complete next) := by
  simp [Plain, SameFlags, SameSetting, SameDevices]

theorem exec_vjsr (k : BitVec 5) (s : State) :
    exec (.vjsr k) s = .next ((s.setAc .a3 (s.pc + 1)).complete (s.read (s.read 1 - k.setWidth 16 - 1))) := rfl

theorem exec_xload (s : State) :
    exec .xload s = .next ((s.setAc .a0 (s.read (s.read 0o40#16 + s.a2))).complete (s.pc + 1)) := rfl

/-- VJSR jumps through the table and leaves the return address in A3 (R287). -/
theorem vjsr_jumps_through_table (k : BitVec 5) (s : State) :
    ∃ t, exec (.vjsr k) s = .next t ∧
      t.pc = s.read (BitVec.ofInt 16 (((s.read 1).toNat : Int) - k.toNat - 1)) ∧ t.a3 = s.pc + 1 ∧ AcsBut .a3 s t ∧
      t.c = s.c ∧ SameMemory s t ∧ Plain s t := by
  refine ⟨_, exec_vjsr k s, ?_, ac_setAc_same s .a3 _, acsBut_setAc_complete s _ _ _, ?_, sameMemory_setAc_complete s _ _ _,
    plain_setAc_complete s _ _ _⟩
  · rw [pc_complete, ofInt_vector_eq_sub]
  · rw [c_complete, c_setAc]

/-- XLOAD loads A0 from its place (R288). -/
theorem xload_loads_a0 (s : State) :
    ∃ t, exec .xload s = .next t ∧ t.a0 = s.read (s.read 0o40#16 + s.a2) ∧ AcsBut .a0 s t ∧ t.c = s.c ∧
      t.pc = s.pc + 1 ∧ SameMemory s t ∧ Plain s t := by
  refine ⟨_, exec_xload s, ac_setAc_same s .a0 _, acsBut_setAc_complete s _ _ _, ?_, pc_complete _ _,
    sameMemory_setAc_complete s _ _ _, plain_setAc_complete s _ _ _⟩
  rw [c_complete, c_setAc]

/-! ### A word is stored -/

/-- A pending parity error is cured where the word it hit is written, and otherwise stays (R353). -/
theorem misread_write_or (s : State) (a v : Word) :
    (s.write a v).misread = s.misread ∨ (s.write a v).misread = none := by
  rw [misread_write]
  cases s.misread with
  | none => exact .inl rfl
  | some m =>
    by_cases h : m.1 = s.phys a
    · exact .inr (by simp [Option.filter, h])
    · exact .inl (by simp [Option.filter, h])

theorem plain_write_advance (s : State) (a v len : Word) (skips : Bool) :
    Plain s ((s.write a v).advance len skips) := by
  have hmisread := misread_write_or s a v
  rw [misread_write] at hmisread
  simpa [Plain, SameFlags, SameSetting, SameDevices] using hmisread

theorem memoryBut_write_advance (s : State) (a v len : Word) (skips : Bool) :
    MemoryBut a s ((s.write a v).advance len skips) :=
  fun b h0 h1 => memByte_write_other s a v b h0 h1

theorem read_advance (s : State) (len a : Word) (skips : Bool) : (s.advance len skips).read a = s.read a := rfl

theorem exec_xstore (s : State) :
    exec .xstore s = .next ((s.write (s.read 0o41#16 + s.a2) s.a0).advance 1 false) := rfl

/-- XSTORE stores A0 at its place (R289). -/
theorem xstore_stores_a0 (s : State) :
    ∃ t, exec .xstore s = .next t ∧ t.read (s.read 0o41#16 + s.a2) = s.a0 ∧
      MemoryBut (s.read 0o41#16 + s.a2) s t ∧ SameAcs s t ∧ t.c = s.c ∧ t.pc = s.pc + 1 ∧ Plain s t := by
  refine ⟨_, exec_xstore s, ?_, memoryBut_write_advance s _ _ _ _, fun k => ?_, ?_, ?_, plain_write_advance s _ _ _ _⟩
  · rw [read_advance, read_write_same]
  · rw [ac_advance, ac_write]
  · rw [c_advance, c_write]
  · rw [pc_advance, if_neg Bool.false_ne_true, pc_write]

/-! ### The obligation -/

/-- Settles O39: the two words are of format EX, VJSR and XLOAD each load one accumulator, and XSTORE is one write. -/
theorem vectoredAndBased : Obligations.VectoredAndBased := by
  refine ⟨fun enc second => ⟨decode_encodeEx_of_fullInstr enc 0b011000#6 second _ rfl,
    decode_encodeEx_of_fullInstr enc 0b011100#6 second _ rfl⟩, fun k s v hv => ?_, xload_loads_a0, xstore_stores_a0⟩
  rw [hv]
  exact vjsr_jumps_through_table k s

end Sys2Proof.Proofs

/-! The encoding as a whole (spec/30_encoding.md sections 1 to 4): the formats' words put together again from their fields,
the firm rows of the extended set against the decode tree (R88 to R92), the parametric rows (R92 to R94), and the two round
trips. -/

namespace Sys2Proof.Proofs

open Sys2Proof Sys2Proof.Machine Sys2Proof.Claims Sys2Proof.Laws

/-! ### Field codes -/

@[simp] theorem indexMode_ofBits_bits (x : IndexMode) : IndexMode.ofBits x.bits = x := by cases x <;> rfl
@[simp] theorem ac_bits_ofBits (b : BitVec 2) : (Ac.ofBits b).bits = b := by revert b; decide
@[simp] theorem indexMode_bits_ofBits (b : BitVec 2) : (IndexMode.ofBits b).bits = b := by revert b; decide
@[simp] theorem shift_bits_ofBits (b : BitVec 2) : (Shift.ofBits b).bits = b := by revert b; decide
@[simp] theorem carryBase_bits_ofBits (b : BitVec 2) : (CarryBase.ofBits b).bits = b := by revert b; decide
@[simp] theorem skipTest_bits_ofBits (b : BitVec 3) : (SkipTest.ofBits b).bits = b := by revert b; decide
@[simp] theorem ctrl_bits_ofBits (b : BitVec 2) : (Ctrl.ofBits b).bits = b := by revert b; decide

/-- Two neighbouring fields are one field. -/
theorem field_append_field (w : Word) (lo m n k : Nat) (h : k = lo + n) :
    field w k m ++ field w lo n = field w lo (m + n) := by
  subst h
  exact BitVec.extractLsb'_append_extractLsb'_eq_extractLsb' (by omega)

theorem ofBool_getLsbD (w : Word) (k : Nat) : BitVec.ofBool (w.getLsbD k) = field w k 1 := by
  refine BitVec.eq_of_getLsbD_eq fun j hj => ?_
  obtain rfl : j = 0 := by omega
  simp

theorem field_zero_sixteen (w : Word) : field w 0 16 = w := BitVec.extractLsb'_eq_self

/-! ### A word is put together from its fields -/

/-- The memory reference formats and LDA, STA share the fields I, X and D (R82, R83). -/
theorem append_memRef_bits (w : Word) : field w 13 3 ++ field w 11 2 ++ (decodeMemRef w).bits = w := by
  unfold MemRef.bits decodeMemRef
  rw [indexMode_bits_ofBits, ofBool_getLsbD, field_append_field w 8 _ _ 10 rfl, field_append_field w 0 _ _ 8 rfl,
    field_append_field w 11 _ _ 13 rfl, field_append_field w 0 _ _ 11 rfl]
  exact field_zero_sixteen w

theorem encodeAlu_decodeAluFields (w : Word) (h : w.getLsbD 15 = true) :
    encodeAlu (field w 8 3) (decodeAluFields w) = w := by
  have htop : (1#1 : BitVec 1) = field w 15 1 := by rw [← ofBool_getLsbD, h]; rfl
  unfold encodeAlu decodeAluFields
  rw [ac_bits_ofBits, ac_bits_ofBits, shift_bits_ofBits, carryBase_bits_ofBits, skipTest_bits_ofBits, ofBool_getLsbD, htop,
    field_append_field w 13 _ _ 15 rfl, field_append_field w 11 _ _ 13 rfl, field_append_field w 8 _ _ 11 rfl,
    field_append_field w 6 _ _ 8 rfl, field_append_field w 4 _ _ 6 rfl, field_append_field w 3 _ _ 4 rfl,
    field_append_field w 0 _ _ 3 rfl]
  exact field_zero_sixteen w

theorem encodeIo_fields (w : Word) (h : field w 13 3 = 0b011#3) :
    encodeIo (Ac.ofBits (field w 11 2)) (field w 8 3) (Ctrl.ofBits (field w 6 2)) (field w 0 6) = w := by
  unfold encodeIo
  rw [ac_bits_ofBits, ctrl_bits_ofBits, ← h, field_append_field w 11 _ _ 13 rfl, field_append_field w 8 _ _ 11 rfl,
    field_append_field w 6 _ _ 8 rfl, field_append_field w 0 _ _ 6 rfl]
  exact field_zero_sixteen w

/-- Every word of the NOP-skip space is of the form of R89. -/
theorem encodeEi_fields (w : Word) (h : nopSkipWord w = true) :
    encodeEi (w.getLsbD 14) (field w 6 8) (field w 4 2) = w := by
  obtain ⟨htop, hlow⟩ := (nopSkipWord_iff w).1 h
  have hone : (1#1 : BitVec 1) = field w 15 1 := by rw [← ofBool_getLsbD, htop]; rfl
  unfold encodeEi
  rw [hone, ← hlow, ofBool_getLsbD, field_append_field w 14 _ _ 15 rfl, field_append_field w 6 _ _ 14 rfl,
    field_append_field w 4 _ _ 6 rfl, field_append_field w 0 _ _ 4 rfl]
  exact field_zero_sixteen w

/-- The low byte of a word of formats EB, ES and EX is fixed by its group (R88, R90 to R92). -/
theorem low_byte_of_group (w : Word) (g : BitVec 2) (h : nopSkipWord w = true) (hop : field w 4 2 = 0b11#2)
    (hg : field w 6 2 = g) : g ++ 0b11#2 ++ 0b1001#4 = field w 0 8 := by
  obtain ⟨-, hlow⟩ := (nopSkipWord_iff w).1 h
  rw [← hlow, ← hop, ← hg, field_append_field w 4 _ _ 6 rfl, field_append_field w 0 _ _ 4 rfl]

theorem top_bits_of_kind (w : Word) (h : nopSkipWord w = true) (hkind : w.getLsbD 14 = true) :
    0b11#2 = field w 14 2 := by
  obtain ⟨htop, -⟩ := (nopSkipWord_iff w).1 h
  rw [← field_append_field w 14 1 1 15 rfl, ← ofBool_getLsbD, ← ofBool_getLsbD, htop, hkind]
  rfl

theorem encodeEs_fields (w : Word) (h : nopSkipWord w = true) (hkind : w.getLsbD 14 = true) (hop : field w 4 2 = 0b11#2)
    (hg : field w 6 2 = 0b01#2) :
    encodeEs (w.getLsbD 13) (Ac.ofBits (field w 11 2)) (field w 8 3) = w := by
  unfold encodeEs
  rw [show (0b01111001#8 : BitVec 8) = field w 0 8 from low_byte_of_group w _ h hop hg, top_bits_of_kind w h hkind,
    ac_bits_ofBits, ofBool_getLsbD, field_append_field w 13 _ _ 14 rfl, field_append_field w 11 _ _ 13 rfl,
    field_append_field w 8 _ _ 11 rfl, field_append_field w 0 _ _ 8 rfl]
  exact field_zero_sixteen w

theorem encodeEx_fields (w : Word) (h : nopSkipWord w = true) (hkind : w.getLsbD 14 = true) (hop : field w 4 2 = 0b11#2)
    (hg : field w 6 2 = 0b10#2) : encodeEx (field w 8 6) = w := by
  unfold encodeEx
  rw [show (0b10111001#8 : BitVec 8) = field w 0 8 from low_byte_of_group w _ h hop hg, top_bits_of_kind w h hkind,
    field_append_field w 8 _ _ 14 rfl, field_append_field w 0 _ _ 8 rfl]
  exact field_zero_sixteen w

/-! ### Format EB -/

/-- The instruction of each group w[13:11] and action of format EB; the others are left to the parametric table (R90). -/
def bitInstr (group : BitVec 3) (act : BitVec 2) (ind : Bool) (mask : Word) : Option Instr :=
  match group, act with
  | 0b000#3, 0b01#2 => some (.clrb ind mask)
  | 0b000#3, 0b10#2 => some (.setb ind mask)
  | 0b000#3, 0b11#2 => some (.togb ind mask)
  | 0b010#3, 0b00#2 => some (.sbz ind mask)
  | 0b010#3, 0b01#2 => some (.sbzc ind mask)
  | 0b010#3, 0b10#2 => some (.sbzs ind mask)
  | 0b010#3, 0b11#2 => some (.sbzt ind mask)
  | 0b011#3, 0b00#2 => some (.sbo ind mask)
  | 0b011#3, 0b01#2 => some (.sboc ind mask)
  | 0b011#3, 0b10#2 => some (.sbos ind mask)
  | 0b011#3, 0b11#2 => some (.sbot ind mask)
  | _, _ => none

/-- A word of format EB by its group (R90). -/
def bitWord (group : BitVec 3) (ind : Bool) (act : BitVec 2) : Word :=
  0b11#2 ++ group ++ BitVec.ofBool ind ++ act ++ 0b00111001#8

theorem encodeEb_eq_bitWord (t one ind : Bool) (act : BitVec 2) :
    encodeEb t one ind act = bitWord (0#1 ++ BitVec.ofBool t ++ BitVec.ofBool one) ind act := by
  cases t <;> cases one <;> rfl

theorem bitWord_fields (w : Word) (h : nopSkipWord w = true) (hkind : w.getLsbD 14 = true) (hop : field w 4 2 = 0b11#2)
    (hg : field w 6 2 = 0b00#2) : bitWord (field w 11 3) (w.getLsbD 10) (field w 8 2) = w := by
  unfold bitWord
  rw [show (0b00111001#8 : BitVec 8) = field w 0 8 from low_byte_of_group w _ h hop hg, top_bits_of_kind w h hkind,
    ofBool_getLsbD, field_append_field w 11 _ _ 14 rfl, field_append_field w 10 _ _ 11 rfl,
    field_append_field w 8 _ _ 10 rfl, field_append_field w 0 _ _ 8 rfl]
  exact field_zero_sixteen w

theorem fields_bitWord (group : BitVec 3) (ind : Bool) (act : BitVec 2) :
    field (bitWord group ind act) 11 3 = group ∧ field (bitWord group ind act) 10 1 = BitVec.ofBool ind ∧
      field (bitWord group ind act) 8 2 = act := by
  unfold bitWord field
  refine ⟨?_, ?_, ?_⟩
  all_goals
    repeat rw [BitVec.extractLsb'_append_eq_of_le (by decide)]
  all_goals exact BitVec.extractLsb'_append_eq_right

/-- The fixed bits of format EB, by which the decode tree reaches it (R87, R88, R90). -/
theorem fixedFields_bitWord (group : BitVec 3) (ind : Bool) (act : BitVec 2) :
    field (bitWord group ind act) 15 1 = 1#1 ∧ field (bitWord group ind act) 14 1 = 1#1 ∧
      field (bitWord group ind act) 6 2 = 0b00#2 ∧ field (bitWord group ind act) 4 2 = 0b11#2 ∧
      field (bitWord group ind act) 0 4 = 0b1001#4 := by
  unfold bitWord field
  refine ⟨?_, ?_, ?_, ?_, ?_⟩
  case refine_1 | refine_2 =>
    repeat rw [BitVec.extractLsb'_append_eq_of_le (by decide)]
    rfl
  all_goals
    rw [BitVec.extractLsb'_append_eq_of_add_le (by decide)]
    rfl

/-- With EIS = 1 a word of format EB is an extended instruction, of the bit group (R87, R88). -/
theorem decode_bitWord (enc : EncTable) (group : BitVec 3) (ind : Bool) (act : BitVec 2) (second : Word) :
    decode enc true (bitWord group ind act) second = decodeEisBit enc (bitWord group ind act) second := by
  obtain ⟨hone, hkind, hgroup, hop, hlow⟩ := fixedFields_bitWord group ind act
  have htop : (bitWord group ind act).getLsbD 15 = true := getLsbD_of_field _ 15 true hone
  rw [decode_of_top_bit enc true _ second htop, (nopSkipWord_iff _).2 ⟨htop, hlow⟩, Bool.true_and, if_pos rfl]
  unfold decodeEis
  rw [getLsbD_of_field _ 14 true hkind, hop, hgroup]
  rfl

/-! ### The firm rows of the extended set -/

theorem decodeEisBit_eq (enc : EncTable) (w second : Word) :
    decodeEisBit enc w second =
      (bitInstr (field w 11 3) (field w 8 2) (w.getLsbD 10) second).getD (decodeParam enc w second) := by
  unfold decodeEisBit bitInstr
  split <;> simp_all

theorem decodeEisStack_eq (enc : EncTable) (w second : Word) :
    decodeEisStack enc w second =
      (stackInstr (w.getLsbD 13) (field w 8 3) (Ac.ofBits (field w 11 2))).getD (decodeParam enc w second) := by
  unfold decodeEisStack stackInstr
  split <;> simp_all

theorem decodeEisFull_eq (enc : EncTable) (w second : Word) :
    decodeEisFull enc w second = (fullInstr (field w 8 6) second).getD (decodeParam enc w second) := by
  unfold decodeEisFull fullInstr
  split <;> simp_all

/-- The extended instruction of a word that the firm rows of R89 to R92 give one, by the decode tree of R88. -/
def firmInstr (w second : Word) : Option Instr :=
  match w.getLsbD 14, field w 4 2, field w 6 2 with
  | true, 0b11#2, 0b00#2 => bitInstr (field w 11 3) (field w 8 2) (w.getLsbD 10) second
  | true, 0b11#2, 0b01#2 => stackInstr (w.getLsbD 13) (field w 8 3) (Ac.ofBits (field w 11 2))
  | true, 0b11#2, 0b10#2 => fullInstr (field w 8 6) second
  | kind, op, _ => immediateInstr kind op (field w 6 8)

/-- The four values of a field of two bits. -/
theorem two_bits_cases (b : BitVec 2) : b = 0b00#2 ∨ b = 0b01#2 ∨ b = 0b10#2 ∨ b = 0b11#2 := by
  revert b; decide

/-- A leaf of the EIS decode tree is the firm instruction of the word or, where there is none, what the parametric table
says (R88, R94). -/
theorem decodeEis_eq (enc : EncTable) (w second : Word) :
    decodeEis enc w second = (firmInstr w second).getD (decodeParam enc w second) := by
  unfold decodeEis firmInstr
  rw [decodeEisBit_eq, decodeEisStack_eq, decodeEisFull_eq]
  cases w.getLsbD 14
  case false => rcases two_bits_cases (field w 4 2) with h | h | h | h <;> rw [h] <;> rfl
  case true =>
    rcases two_bits_cases (field w 4 2) with h | h | h | h
    case inr.inr.inr =>
      rcases two_bits_cases (field w 6 2) with hg | hg | hg | hg <;> rw [h, hg] <;> rfl
    all_goals rw [h]; rfl

/-- Whether a word is firm does not depend on the word after it. -/
theorem isSome_firmInstr (w second : Word) : (firmInstr w second).isSome = (firmInstr w 0).isSome := by
  unfold firmInstr
  split
  · unfold bitInstr; split <;> rfl
  · rfl
  · unfold fullInstr; split <;> rfl
  · rfl

/-- The decode tree has a leaf for a word of each kind and opcode exactly where a firm row matches it: by the eight bits
w[13:6], 256 words each. -/
theorem firmEisWord_encodeEi (kind : Bool) (op : BitVec 2) (k : BitVec 8) :
    firmEisWord (encodeEi kind k op) = (firmInstr (encodeEi kind k op) 0).isSome := by
  revert kind op k; decide

theorem firmEisWord_eq (w second : Word) (h : nopSkipWord w = true) :
    firmEisWord w = (firmInstr w second).isSome := by
  rw [isSome_firmInstr, ← encodeEi_fields w h]
  exact firmEisWord_encodeEi _ _ _

/-! ### Formats MRJ and IO -/

/-- The instruction of each opcode of format MRJ (R82). -/
def mrjInstr (op : BitVec 2) (m : MemRef) : Instr :=
  match op with
  | 0b00#2 => .jmp m
  | 0b01#2 => .jsr m
  | 0b10#2 => .isz m
  | _ => .dsz m

theorem decodeMrj_eq_mrjInstr (w : Word) : decodeMrj w = mrjInstr (field w 11 2) (decodeMemRef w) := rfl

/-- Where each field of a memory reference instruction lies in the word (R82, R83). -/
theorem fields_memRefWord (fmt : BitVec 3) (hi : BitVec 2) (m : MemRef) :
    field (fmt ++ hi ++ m.bits) 13 3 = fmt ∧ field (fmt ++ hi ++ m.bits) 11 2 = hi ∧
      field (fmt ++ hi ++ m.bits) 10 1 = BitVec.ofBool m.ind ∧ field (fmt ++ hi ++ m.bits) 8 2 = m.x.bits ∧
      field (fmt ++ hi ++ m.bits) 0 8 = m.d := by
  unfold MemRef.bits field
  refine ⟨?_, ?_, ?_, ?_, ?_⟩
  case refine_1 =>
    repeat rw [BitVec.extractLsb'_append_eq_of_le (by decide)]
    exact BitVec.extractLsb'_eq_self
  case refine_2 =>
    rw [BitVec.extractLsb'_append_eq_of_le (by decide)]
    exact BitVec.extractLsb'_append_eq_right
  all_goals
    rw [BitVec.extractLsb'_append_eq_of_add_le (by decide)]
    repeat rw [BitVec.extractLsb'_append_eq_of_le (by decide)]
  case refine_3 => exact BitVec.extractLsb'_eq_self
  all_goals exact BitVec.extractLsb'_append_eq_right

theorem decodeMemRef_memRefWord (fmt : BitVec 3) (hi : BitVec 2) (m : MemRef) :
    decodeMemRef (fmt ++ hi ++ m.bits) = m := by
  obtain ⟨-, -, hind, hx, hd⟩ := fields_memRefWord fmt hi m
  unfold decodeMemRef
  rw [getLsbD_of_field _ 10 _ hind, hx, hd, indexMode_ofBits_bits]

theorem decode_encodeMrj (enc : EncTable) (eis : Bool) (op : BitVec 2) (m : MemRef) (second : Word) :
    decode enc eis (encodeMrj op m) second = mrjInstr op m := by
  obtain ⟨hfmt, hop, -⟩ := fields_memRefWord 0b000#3 op m
  have hm := decodeMemRef_memRefWord 0b000#3 op m
  change field (encodeMrj op m) 13 3 = 0b000#3 at hfmt
  change field (encodeMrj op m) 11 2 = op at hop
  change decodeMemRef (encodeMrj op m) = m at hm
  unfold decode
  rw [hfmt, decodeMrj_eq_mrjInstr, hop, hm]
  rfl

theorem decode_lda (enc : EncTable) (eis : Bool) (ac : Ac) (m : MemRef) (second : Word) :
    decode enc eis (0b001#3 ++ ac.bits ++ m.bits) second = .lda ac m := by
  obtain ⟨hfmt, hac, -⟩ := fields_memRefWord 0b001#3 ac.bits m
  unfold decode
  rw [hfmt, hac, decodeMemRef_memRefWord, ac_ofBits_bits]
  rfl

theorem decode_sta (enc : EncTable) (eis : Bool) (ac : Ac) (m : MemRef) (second : Word) :
    decode enc eis (0b010#3 ++ ac.bits ++ m.bits) second = .sta ac m := by
  obtain ⟨hfmt, hac, -⟩ := fields_memRefWord 0b010#3 ac.bits m
  unfold decode
  rw [hfmt, hac, decodeMemRef_memRefWord, ac_ofBits_bits]
  rfl

/-- The instruction of each opcode of format IO with a device code 00 to 76 (R85). -/
def deviceInstr (op : BitVec 3) (ac : Ac) (f : Ctrl) (d : DevCode) : Instr :=
  match op with
  | 0b000#3 => .nio ac f d
  | 0b001#3 => .dia ac f d
  | 0b010#3 => .doa ac f d
  | 0b011#3 => .dib ac f d
  | 0b100#3 => .dob ac f d
  | 0b101#3 => .dic ac f d
  | 0b110#3 => .doc ac f d
  | _ =>
    match f with
    | .none => .skpbn ac d
    | .s => .skpbz ac d
    | .c => .skpdn ac d
    | .p => .skpdz ac d

/-- The instruction of each opcode of format IO with device code 77 (R85, R100, R200 to R215). -/
def cpuInstr (op : BitVec 3) (ac : Ac) (f : Ctrl) : Instr :=
  match op with
  | 0b000#3 =>
    match f with
    | .none => .nioCpu ac
    | .s => .inten ac
    | .c => .intds ac
    | .p => .niopCpu ac
  | 0b001#3 => .reads ac f
  | 0b010#3 => .doaCpu ac f
  | 0b011#3 => .inta ac f
  | 0b100#3 => .msko ac f
  | 0b101#3 => if ac == .a0 && f == .c then .iorst else .dicCpu ac f
  | 0b110#3 => .halt ac f
  | _ =>
    match f with
    | .none => .skpbnCpu ac
    | .s => .skpbzCpu ac
    | .c => .skpdnCpu ac
    | .p => .skpdzCpu ac

theorem decodeIoDevice_eq_deviceInstr (w : Word) :
    decodeIoDevice w =
      deviceInstr (field w 8 3) (Ac.ofBits (field w 11 2)) (Ctrl.ofBits (field w 6 2)) (field w 0 6) := rfl

theorem decodeIoCpu_eq_cpuInstr (w : Word) :
    decodeIoCpu w = cpuInstr (field w 8 3) (Ac.ofBits (field w 11 2)) (Ctrl.ofBits (field w 6 2)) := rfl

theorem decode_encodeIo_device (enc : EncTable) (eis : Bool) (ac : Ac) (op : BitVec 3) (f : Ctrl) (d : DevCode)
    (second : Word) (hd : d ≠ cpuCode) : decode enc eis (encodeIo ac op f d) second = deviceInstr op ac f d := by
  obtain ⟨-, hac, hop, hf, hcode⟩ := fields_encodeIo ac op f d
  rw [decode_encodeIo, decodeIo, hcode, if_neg (by simpa using hd), decodeIoDevice_eq_deviceInstr, hop, hac, hf, hcode,
    ac_ofBits_bits, ctrl_ofBits_bits]

theorem decode_encodeIo_cpu (enc : EncTable) (eis : Bool) (ac : Ac) (op : BitVec 3) (f : Ctrl) (second : Word) :
    decode enc eis (encodeIo ac op f cpuCode) second = cpuInstr op ac f := by
  obtain ⟨-, hac, hop, hf, -⟩ := fields_encodeIo ac op f cpuCode
  rw [decode_encodeIo, decodeIo_encodeIo_cpu, decodeIoCpu_eq_cpuInstr, hop, hac, hf, ac_ofBits_bits, ctrl_ofBits_bits]

/-! ### Format ALU with either value of EIS -/

/-- An arithmetic word lies in the NOP-skip space when it has NL and SKP (R154). -/
theorem nopSkipWord_encodeAlu (op : BitVec 3) (f : AluFields) :
    nopSkipWord (encodeAlu op f) = (f.nl && f.sk == .skp) := by
  obtain ⟨htop, -, -, -, -, -, hnl, hsk⟩ := fields_encodeAlu op f
  have hlow : (encodeAlu op f).extractLsb' 0 4 = BitVec.ofBool f.nl ++ f.sk.bits := by
    rw [← hnl, ← hsk, field_append_field _ 0 _ _ 3 rfl]
  rw [Bool.eq_iff_iff, nopSkipWord_iff, hlow, getLsbD_of_field _ 15 true htop]
  cases f.nl <;> cases f.sk <;> decide

theorem decode_encodeAlu_of_wf (enc : EncTable) (eis : Bool) (op : BitVec 3) (f : AluFields) (second : Word)
    (h : f.wf eis = true) : decode enc eis (encodeAlu op f) second = aluInstr op f := by
  have hnop : (eis && nopSkipWord (encodeAlu op f)) = false := by
    rw [nopSkipWord_encodeAlu, ← Bool.and_assoc]; exact Eq.mp (Bool.not_eq_true' _) h
  obtain ⟨-, -, -, hop, -⟩ := fields_encodeAlu op f
  rw [decode_of_top_bit enc eis _ second (getLsbD_encodeAlu_15 op f), hnop, if_neg Bool.false_ne_true,
    decodeAlu_eq_aluInstr, hop, decodeAluFields_encodeAlu]

theorem decode_encodeEb_of_bitInstr (enc : EncTable) (t one ind : Bool) (act : BitVec 2) (mask : Word) (i : Instr)
    (h : bitInstr (0#1 ++ BitVec.ofBool t ++ BitVec.ofBool one) act ind mask = some i) :
    decode enc true (encodeEb t one ind act) mask = i := by
  obtain ⟨hgroup, hind, hact⟩ := fields_bitWord (0#1 ++ BitVec.ofBool t ++ BitVec.ofBool one) ind act
  rw [encodeEb_eq_bitWord, decode_bitWord, decodeEisBit_eq, hgroup, hact, getLsbD_of_field _ 10 ind hind, h]
  rfl

/-! ### The parametric rows -/

/-- In a list of pairs with different first members a first member has one second member. -/
theorem find_fst_of_mem {α β : Type} [BEq α] [LawfulBEq α] (l : List (α × β)) (a : α) (b : β)
    (hl : (l.map (·.1)).Nodup) (h : (a, b) ∈ l) : l.find? (fun e => e.1 == a) = some (a, b) := by
  induction l with
  | nil => cases h
  | cons e t ih =>
    obtain ⟨he, ht⟩ := List.nodup_cons.1 hl
    rw [List.find?_cons]
    rcases List.mem_cons.1 h with rfl | hmem
    · simp
    · have hne : (e.1 == a) = false := by
        rw [beq_eq_false_iff_ne]
        rintro rfl
        exact he (List.mem_map.2 ⟨_, hmem, rfl⟩)
      rw [hne]; exact ih ht hmem

/-- In a list of pairs with different second members a second member has one first member. -/
theorem find_snd_of_mem {α β : Type} [BEq β] [LawfulBEq β] (l : List (α × β)) (a : α) (b : β)
    (hl : (l.map (·.2)).Nodup) (h : (a, b) ∈ l) : l.find? (fun e => e.2 == b) = some (a, b) := by
  induction l with
  | nil => cases h
  | cons e t ih =>
    obtain ⟨he, ht⟩ := List.nodup_cons.1 hl
    rw [List.find?_cons]
    rcases List.mem_cons.1 h with rfl | hmem
    · simp
    · have hne : (e.2 == b) = false := by
        rw [beq_eq_false_iff_ne]
        rintro rfl
        exact he (List.mem_map.2 ⟨_, hmem, rfl⟩)
      rw [hne]; exact ih ht hmem

theorem mem_of_word? (enc : EncTable) (op : ParamOp) (w : Word) (h : enc.word? op = some w) : (w, op) ∈ enc := by
  obtain ⟨⟨w', op'⟩, he, rfl⟩ := Option.map_eq_some_iff.1 h
  obtain rfl : op' = op := by simpa using List.find?_some he
  exact List.mem_of_find?_eq_some he

theorem mem_of_op? (enc : EncTable) (op : ParamOp) (w : Word) (h : enc.op? w = some op) : (w, op) ∈ enc := by
  obtain ⟨⟨w', op'⟩, he, rfl⟩ := Option.map_eq_some_iff.1 h
  obtain rfl : w' = w := by simpa using List.find?_some he
  exact List.mem_of_find?_eq_some he

/-- What a well-formed table says of the words it lists (R290, R313). -/
theorem wf_table_word (enc : EncTable) (hwf : enc.wf = true) (w : Word) (op : ParamOp) (h : (w, op) ∈ enc) :
    nopSkipWord w = true ∧ firmEisWord w = false ∧ enc.op? w = some op := by
  obtain ⟨hall, hnodup⟩ := Bool.and_eq_true_iff.1 hwf
  have hrow := List.all_eq_true.1 hall _ h
  obtain ⟨hnop, hfirm⟩ := Bool.and_eq_true_iff.1 hrow
  refine ⟨hnop, by simpa using hfirm, ?_⟩
  unfold EncTable.op?
  rw [find_fst_of_mem enc w op (of_decide_eq_true hnodup) h]
  rfl

/-- With EIS = 1 a word of the NOP-skip space that no firm row matches is left to the parametric table (R94). -/
theorem decode_of_not_firm (enc : EncTable) (w second : Word) (hnop : nopSkipWord w = true)
    (hfirm : firmEisWord w = false) : decode enc true w second = decodeParam enc w second := by
  obtain ⟨htop, -⟩ := (nopSkipWord_iff w).1 hnop
  have hnone : firmInstr w second = none := by
    rw [← Option.isNone_iff_eq_none, ← Option.not_isSome, ← firmEisWord_eq w second hnop, hfirm]; rfl
  rw [decode_of_top_bit enc true w second htop, hnop, Bool.true_and, if_pos rfl, decodeEis_eq, hnone]
  rfl

/-- The first word of a parametric operation decodes to it (R92, R93). -/
theorem decode_word? (enc : EncTable) (hwf : enc.wf = true) (op : ParamOp) (w second : Word)
    (h : enc.word? op = some w) : decode enc true w second = op.toInstr second := by
  obtain ⟨hnop, hfirm, hop⟩ := wf_table_word enc hwf w op (mem_of_word? enc op w h)
  rw [decode_of_not_firm enc w second hnop hfirm, decodeParam, hop]

theorem decode_unassigned (enc : EncTable) (w second : Word) (h : unassignedWord enc w = true) :
    decode enc true w second = .eisUnassigned w := by
  obtain ⟨⟨hnop, hfirm⟩, hop⟩ : (nopSkipWord w = true ∧ firmEisWord w = false) ∧ enc.op? w = none := by
    simpa [unassignedWord] using h
  rw [decode_of_not_firm enc w second hnop hfirm, decodeParam, hop]

/-! ### From a word to its instruction and back -/

/-- The instruction exists, and its words are the first word and, where it has two, the second. -/
def RoundTrips (enc : EncTable) (eis : Bool) (w second : Word) (i : Instr) : Prop :=
  WellFormed enc eis i = true ∧ encode enc i = w :: (if i.words = 2 then [second] else [])

theorem roundTrips_mrjInstr (enc : EncTable) (eis : Bool) (second : Word) (op : BitVec 2) (m : MemRef) :
    RoundTrips enc eis (encodeMrj op m) second (mrjInstr op m) := by
  rcases two_bits_cases op with rfl | rfl | rfl | rfl <;> exact ⟨rfl, rfl⟩

/-- The eight values of a field of three bits. -/
theorem three_bits_cases (b : BitVec 3) :
    b = 0b000#3 ∨ b = 0b001#3 ∨ b = 0b010#3 ∨ b = 0b011#3 ∨ b = 0b100#3 ∨ b = 0b101#3 ∨ b = 0b110#3 ∨ b = 0b111#3 := by
  revert b; decide

theorem roundTrips_aluInstr (enc : EncTable) (eis : Bool) (second : Word) (op : BitVec 3) (f : AluFields)
    (h : f.wf eis = true) : RoundTrips enc eis (encodeAlu op f) second (aluInstr op f) := by
  rcases three_bits_cases op with rfl | rfl | rfl | rfl | rfl | rfl | rfl | rfl <;> exact ⟨h, rfl⟩

theorem roundTrips_deviceInstr (enc : EncTable) (eis : Bool) (second : Word) (op : BitVec 3) (ac : Ac) (f : Ctrl)
    (d : DevCode) (hd : d ≠ cpuCode) : RoundTrips enc eis (encodeIo ac op f d) second (deviceInstr op ac f d) := by
  have hcode : (d != cpuCode) = true := bne_iff_ne.2 hd
  rcases three_bits_cases op with rfl | rfl | rfl | rfl | rfl | rfl | rfl | rfl
  case inr.inr.inr.inr.inr.inr.inr => cases f <;> exact ⟨hcode, rfl⟩
  all_goals exact ⟨hcode, rfl⟩

theorem roundTrips_cpuInstr (enc : EncTable) (eis : Bool) (second : Word) (op : BitVec 3) (ac : Ac) (f : Ctrl) :
    RoundTrips enc eis (encodeIo ac op f cpuCode) second (cpuInstr op ac f) := by
  rcases three_bits_cases op with rfl | rfl | rfl | rfl | rfl | rfl | rfl | rfl
  case inl | inr.inr.inr.inr.inr.inr.inr => cases f <;> exact ⟨rfl, rfl⟩
  case inr.inr.inr.inr.inr.inl => cases ac <;> cases f <;> exact ⟨rfl, rfl⟩
  all_goals exact ⟨rfl, rfl⟩

theorem roundTrips_immediateInstr (enc : EncTable) (second : Word) (kind : Bool) (op : BitVec 2) (k : BitVec 8) (i : Instr)
    (h : immediateInstr kind op k = some i) : RoundTrips enc true (encodeEi kind k op) second i := by
  unfold immediateInstr at h
  split at h
  case h_8 => exact absurd h (Option.some_ne_none i).symm
  all_goals
    obtain rfl := Option.some.inj h
    exact ⟨rfl, rfl⟩

theorem roundTrips_bitInstr (enc : EncTable) (group : BitVec 3) (act : BitVec 2) (ind : Bool) (mask : Word) (i : Instr)
    (h : bitInstr group act ind mask = some i) : RoundTrips enc true (bitWord group ind act) mask i := by
  unfold bitInstr at h
  split at h
  case h_12 => exact absurd h (Option.some_ne_none i).symm
  all_goals
    obtain rfl := Option.some.inj h
    exact ⟨rfl, rfl⟩

theorem roundTrips_stackInstr (enc : EncTable) (second : Word) (m : Bool) (dir : BitVec 3) (ac : Ac) (i : Instr)
    (h : stackInstr m dir ac = some i) : RoundTrips enc true (encodeEs m ac dir) second i := by
  unfold stackInstr at h
  split at h
  case h_5 => exact absurd h (Option.some_ne_none i).symm
  all_goals
    obtain rfl := Option.some.inj h
    exact ⟨rfl, rfl⟩

theorem roundTrips_fullInstr (enc : EncTable) (op : BitVec 6) (second : Word) (i : Instr)
    (h : fullInstr op second = some i) : RoundTrips enc true (encodeEx op) second i := by
  unfold fullInstr at h
  split at h
  case h_9 => exact absurd h (Option.some_ne_none i).symm
  all_goals
    obtain rfl := Option.some.inj h
    exact ⟨rfl, rfl⟩

/-- A firm word of the NOP-skip space (R89 to R92). -/
theorem roundTrips_firmInstr (enc : EncTable) (w second : Word) (i : Instr) (hnop : nopSkipWord w = true)
    (h : firmInstr w second = some i) : RoundTrips enc true w second i := by
  unfold firmInstr at h
  split at h
  next hkind hop hg =>
    rw [← bitWord_fields w hnop hkind hop hg]
    exact roundTrips_bitInstr enc _ _ _ second i h
  next hkind hop hg =>
    rw [← encodeEs_fields w hnop hkind hop hg]
    exact roundTrips_stackInstr enc second _ _ _ i h
  next hkind hop hg =>
    rw [← encodeEx_fields w hnop hkind hop hg]
    exact roundTrips_fullInstr enc _ second i h
  · have hrt := roundTrips_immediateInstr enc second _ _ _ i h
    rwa [encodeEi_fields w hnop] at hrt

/-- A parametric word, under a table that gives each operation one first word (R92, R93). -/
theorem roundTrips_toInstr (enc : EncTable) (w second : Word) (op : ParamOp) (h : enc.word? op = some w) :
    RoundTrips enc true w second (op.toInstr second) := by
  have hknows : (true && enc.knows op) = true := by rw [Bool.true_and, EncTable.knows, h]; rfl
  have hword : (enc.word? op).toList = [w] := by rw [h]; rfl
  cases op
  case trace => exact ⟨hknows, congrArg (· ++ [second]) hword⟩
  all_goals exact ⟨hknows, hword⟩

theorem roundTrips_decodeParam (enc : EncTable) (w second : Word) (hops : (enc.map (·.2)).Nodup)
    (hnop : nopSkipWord w = true) (hfirm : firmEisWord w = false) :
    RoundTrips enc true w second (decodeParam enc w second) := by
  unfold decodeParam
  split
  next op hop =>
    have hword : enc.word? op = some w := by
      rw [EncTable.word?, find_snd_of_mem enc w op hops (mem_of_op? enc op w hop)]; rfl
    exact roundTrips_toInstr enc w second op hword
  next hop =>
    have hwf : (true && unassignedWord enc w) = true := by simp [unassignedWord, hnop, hfirm, hop]
    exact ⟨hwf, rfl⟩

/-- A word of the NOP-skip space with EIS = 1 (R88, R94). -/
theorem roundTrips_decodeEis (enc : EncTable) (w second : Word) (hops : (enc.map (·.2)).Nodup)
    (hnop : nopSkipWord w = true) : RoundTrips enc true w second (decodeEis enc w second) := by
  rw [decodeEis_eq]
  cases h : firmInstr w second with
  | some i => exact roundTrips_firmInstr enc w second i hnop h
  | none =>
    have hfirm : firmEisWord w = false := by rw [firmEisWord_eq w second hnop, h]; rfl
    exact roundTrips_decodeParam enc w second hops hnop hfirm

theorem roundTrips_decodeAlu (enc : EncTable) (eis : Bool) (w second : Word) (htop : w.getLsbD 15 = true)
    (hnop : (eis && nopSkipWord w) = false) : RoundTrips enc eis w second (decodeAlu w) := by
  have hw := encodeAlu_decodeAluFields w htop
  have hwf : (decodeAluFields w).wf eis = true := by
    rw [← hw, nopSkipWord_encodeAlu, ← Bool.and_assoc] at hnop
    exact Eq.mpr (Bool.not_eq_true' _) hnop
  have hrt := roundTrips_aluInstr enc eis second (field w 8 3) (decodeAluFields w) hwf
  rwa [hw, ← decodeAlu_eq_aluInstr] at hrt

theorem roundTrips_decodeIo (enc : EncTable) (eis : Bool) (w second : Word) (hfmt : field w 13 3 = 0b011#3) :
    RoundTrips enc eis w second (decodeIo w) := by
  have hw := encodeIo_fields w hfmt
  unfold decodeIo
  by_cases hd : field w 0 6 = cpuCode
  · have hrt := roundTrips_cpuInstr enc eis second (field w 8 3) (Ac.ofBits (field w 11 2)) (Ctrl.ofBits (field w 6 2))
    rw [← hd, hw] at hrt
    rwa [if_pos (beq_iff_eq.2 hd), decodeIoCpu_eq_cpuInstr]
  · have hrt := roundTrips_deviceInstr enc eis second (field w 8 3) (Ac.ofBits (field w 11 2)) (Ctrl.ofBits (field w 6 2))
      (field w 0 6) hd
    rw [hw] at hrt
    rwa [if_neg (mt beq_iff_eq.1 hd), decodeIoDevice_eq_deviceInstr]

/-- A word whose top bits are of none of the formats MRJ, LDA, STA and IO has its top bit set (R81). -/
theorem top_bit_of_other_format (w : Word) (h0 : field w 13 3 ≠ 0b000#3) (h1 : field w 13 3 ≠ 0b001#3)
    (h2 : field w 13 3 ≠ 0b010#3) (h3 : field w 13 3 ≠ 0b011#3) : w.getLsbD 15 = true := by
  have htop : (field w 13 3).getLsbD 2 = w.getLsbD 15 := by simp
  have hcases : ∀ b : BitVec 3, b ≠ 0b000#3 → b ≠ 0b001#3 → b ≠ 0b010#3 → b ≠ 0b011#3 → b.getLsbD 2 = true := by decide
  rw [← htop]
  exact hcases _ h0 h1 h2 h3

/-- Settles O3: format by format a word is put together again from the fields that the decoder reads. -/
theorem encodeOfDecode : Obligations.EncodeOfDecode := by
  intro enc eis w second _ hops
  change RoundTrips enc eis w second (decode enc eis w second)
  unfold decode
  split
  next hfmt =>
    have hw : encodeMrj (field w 11 2) (decodeMemRef w) = w := by
      rw [encodeMrj, ← hfmt]; exact append_memRef_bits w
    have hrt := roundTrips_mrjInstr enc eis second (field w 11 2) (decodeMemRef w)
    rwa [hw, ← decodeMrj_eq_mrjInstr] at hrt
  next hfmt =>
    refine ⟨rfl, congrArg (fun v => [v]) ?_⟩
    rw [ac_bits_ofBits, ← hfmt]; exact append_memRef_bits w
  next hfmt =>
    refine ⟨rfl, congrArg (fun v => [v]) ?_⟩
    rw [ac_bits_ofBits, ← hfmt]; exact append_memRef_bits w
  next hfmt => exact roundTrips_decodeIo enc eis w second hfmt
  next h0 h1 h2 h3 =>
    have htop := top_bit_of_other_format w h0 h1 h2 h3
    by_cases hnop : (eis && nopSkipWord w) = true
    · obtain ⟨rfl, hnop'⟩ := Bool.and_eq_true_iff.1 hnop
      rw [if_pos hnop]
      exact roundTrips_decodeEis enc w second hops hnop'
    · rw [if_neg hnop]
      exact roundTrips_decodeAlu enc eis w second htop (Bool.eq_false_iff.2 hnop)

/-! ### From an instruction to its words and back -/

/-- Decoding the words of the instruction, whatever follows them, gives it back. -/
def DecodesBack (enc : EncTable) (eis : Bool) (i : Instr) : Prop :=
  ∀ rest, decodeWords enc eis (encode enc i ++ rest) = .ok (i, rest)

theorem decodesBack_of_one_word (enc : EncTable) (eis : Bool) (i : Instr) (w : Word) (hw : encode enc i = [w])
    (hwords : i.words = 1) (hdec : decode enc eis w 0 = i) : DecodesBack enc eis i := by
  intro rest
  have hone : i.words ≠ 2 := by omega
  simp only [hw, List.cons_append, List.nil_append, decodeWords, hdec, if_neg hone]

theorem decodesBack_of_two_words (enc : EncTable) (eis : Bool) (i : Instr) (w second : Word)
    (hw : encode enc i = [w, second]) (hwords : (decode enc eis w 0).words = 2) (hdec : decode enc eis w second = i) :
    DecodesBack enc eis i := by
  intro rest
  simp only [hw, List.cons_append, List.nil_append, decodeWords, if_pos hwords, hdec]

/-- An instruction of format EB. -/
theorem decodesBack_bit (enc : EncTable) (t one ind : Bool) (act : BitVec 2) (mask : Word) (make : Word → Instr)
    (hmake : ∀ m, bitInstr (0#1 ++ BitVec.ofBool t ++ BitVec.ofBool one) act ind m = some (make m))
    (hwords : (make 0).words = 2) (hw : encode enc (make mask) = [encodeEb t one ind act, mask]) :
    DecodesBack enc true (make mask) := by
  refine decodesBack_of_two_words enc true _ _ mask hw ?_ (decode_encodeEb_of_bitInstr enc t one ind act mask _ (hmake mask))
  rw [decode_encodeEb_of_bitInstr enc t one ind act 0 _ (hmake 0)]
  exact hwords

/-- An instruction of format EX with a second word. -/
theorem decodesBack_full (enc : EncTable) (op : BitVec 6) (second : Word) (make : Word → Instr)
    (hmake : ∀ a, fullInstr op a = some (make a)) (hwords : (make 0).words = 2)
    (hw : encode enc (make second) = [encodeEx op, second]) : DecodesBack enc true (make second) := by
  refine decodesBack_of_two_words enc true _ _ second hw ?_ (decode_encodeEx_of_fullInstr enc op second _ (hmake second))
  rw [decode_encodeEx_of_fullInstr enc op 0 _ (hmake 0)]
  exact hwords

/-- A parametric operation of one word. -/
theorem decodesBack_param (enc : EncTable) (eis : Bool) (hwf : enc.wf = true) (op : ParamOp)
    (hknown : (eis && enc.knows op) = true) (hwords : (op.toInstr 0).words = 1)
    (hw : encode enc (op.toInstr 0) = (enc.word? op).toList) : DecodesBack enc eis (op.toInstr 0) := by
  obtain ⟨rfl, hknows⟩ := Bool.and_eq_true_iff.1 hknown
  obtain ⟨w, hword⟩ := Option.isSome_iff_exists.1 hknows
  refine decodesBack_of_one_word enc true _ w ?_ hwords (decode_word? enc hwf op w 0 hword)
  rw [hw, hword]; rfl

theorem decodesBack_trace (enc : EncTable) (eis : Bool) (hwf : enc.wf = true) (a : Word)
    (hknown : (eis && enc.knows .trace) = true) : DecodesBack enc eis (.trace a) := by
  obtain ⟨rfl, hknows⟩ := Bool.and_eq_true_iff.1 hknown
  obtain ⟨w, hword⟩ := Option.isSome_iff_exists.1 hknows
  refine decodesBack_of_two_words enc true _ w a ?_ ?_ (decode_word? enc hwf .trace w a hword)
  · change (enc.word? .trace).toList ++ [a] = [w, a]
    rw [hword]; rfl
  · rw [decode_word? enc hwf .trace w 0 hword]; rfl

/-- Settles O2: the case of each instruction cites the round trip of its format. -/
theorem decodeOfEncode : Obligations.DecodeOfEncode := by
  intro enc eis i rest hwf h
  revert rest
  change DecodesBack enc eis i
  cases i with
  | jmp m => exact decodesBack_of_one_word enc eis _ _ rfl rfl (decode_encodeMrj enc eis 0b00#2 m 0)
  | jsr m => exact decodesBack_of_one_word enc eis _ _ rfl rfl (decode_encodeMrj enc eis 0b01#2 m 0)
  | isz m => exact decodesBack_of_one_word enc eis _ _ rfl rfl (decode_encodeMrj enc eis 0b10#2 m 0)
  | dsz m => exact decodesBack_of_one_word enc eis _ _ rfl rfl (decode_encodeMrj enc eis 0b11#2 m 0)
  | lda ac m => exact decodesBack_of_one_word enc eis _ _ rfl rfl (decode_lda enc eis ac m 0)
  | sta ac m => exact decodesBack_of_one_word enc eis _ _ rfl rfl (decode_sta enc eis ac m 0)
  | com f => exact decodesBack_of_one_word enc eis _ _ rfl rfl (decode_encodeAlu_of_wf enc eis 0b000#3 f 0 h)
  | neg f => exact decodesBack_of_one_word enc eis _ _ rfl rfl (decode_encodeAlu_of_wf enc eis 0b001#3 f 0 h)
  | mov f => exact decodesBack_of_one_word enc eis _ _ rfl rfl (decode_encodeAlu_of_wf enc eis 0b010#3 f 0 h)
  | inc f => exact decodesBack_of_one_word enc eis _ _ rfl rfl (decode_encodeAlu_of_wf enc eis 0b011#3 f 0 h)
  | adc f => exact decodesBack_of_one_word enc eis _ _ rfl rfl (decode_encodeAlu_of_wf enc eis 0b100#3 f 0 h)
  | sub f => exact decodesBack_of_one_word enc eis _ _ rfl rfl (decode_encodeAlu_of_wf enc eis 0b101#3 f 0 h)
  | add f => exact decodesBack_of_one_word enc eis _ _ rfl rfl (decode_encodeAlu_of_wf enc eis 0b110#3 f 0 h)
  | and_ f => exact decodesBack_of_one_word enc eis _ _ rfl rfl (decode_encodeAlu_of_wf enc eis 0b111#3 f 0 h)
  | nio ac f d => exact decodesBack_of_one_word enc eis _ _ rfl rfl (decode_encodeIo_device enc eis ac 0b000#3 f d 0 (bne_iff_ne.1 h))
  | dia ac f d => exact decodesBack_of_one_word enc eis _ _ rfl rfl (decode_encodeIo_device enc eis ac 0b001#3 f d 0 (bne_iff_ne.1 h))
  | doa ac f d => exact decodesBack_of_one_word enc eis _ _ rfl rfl (decode_encodeIo_device enc eis ac 0b010#3 f d 0 (bne_iff_ne.1 h))
  | dib ac f d => exact decodesBack_of_one_word enc eis _ _ rfl rfl (decode_encodeIo_device enc eis ac 0b011#3 f d 0 (bne_iff_ne.1 h))
  | dob ac f d => exact decodesBack_of_one_word enc eis _ _ rfl rfl (decode_encodeIo_device enc eis ac 0b100#3 f d 0 (bne_iff_ne.1 h))
  | dic ac f d => exact decodesBack_of_one_word enc eis _ _ rfl rfl (decode_encodeIo_device enc eis ac 0b101#3 f d 0 (bne_iff_ne.1 h))
  | doc ac f d => exact decodesBack_of_one_word enc eis _ _ rfl rfl (decode_encodeIo_device enc eis ac 0b110#3 f d 0 (bne_iff_ne.1 h))
  | skpbn ac d => exact decodesBack_of_one_word enc eis _ _ rfl rfl (decode_encodeIo_device enc eis ac 0b111#3 .none d 0 (bne_iff_ne.1 h))
  | skpbz ac d => exact decodesBack_of_one_word enc eis _ _ rfl rfl (decode_encodeIo_device enc eis ac 0b111#3 .s d 0 (bne_iff_ne.1 h))
  | skpdn ac d => exact decodesBack_of_one_word enc eis _ _ rfl rfl (decode_encodeIo_device enc eis ac 0b111#3 .c d 0 (bne_iff_ne.1 h))
  | skpdz ac d => exact decodesBack_of_one_word enc eis _ _ rfl rfl (decode_encodeIo_device enc eis ac 0b111#3 .p d 0 (bne_iff_ne.1 h))
  | nioCpu ac => exact decodesBack_of_one_word enc eis _ _ rfl rfl (decode_encodeIo_cpu enc eis ac 0b000#3 .none 0)
  | inten ac => exact decodesBack_of_one_word enc eis _ _ rfl rfl (decode_encodeIo_cpu enc eis ac 0b000#3 .s 0)
  | intds ac => exact decodesBack_of_one_word enc eis _ _ rfl rfl (decode_encodeIo_cpu enc eis ac 0b000#3 .c 0)
  | niopCpu ac => exact decodesBack_of_one_word enc eis _ _ rfl rfl (decode_encodeIo_cpu enc eis ac 0b000#3 .p 0)
  | reads ac f => exact decodesBack_of_one_word enc eis _ _ rfl rfl (decode_encodeIo_cpu enc eis ac 0b001#3 f 0)
  | doaCpu ac f => exact decodesBack_of_one_word enc eis _ _ rfl rfl (decode_encodeIo_cpu enc eis ac 0b010#3 f 0)
  | inta ac f => exact decodesBack_of_one_word enc eis _ _ rfl rfl (decode_encodeIo_cpu enc eis ac 0b011#3 f 0)
  | msko ac f => exact decodesBack_of_one_word enc eis _ _ rfl rfl (decode_encodeIo_cpu enc eis ac 0b100#3 f 0)
  | dicCpu ac f =>
    have hdic : ¬ (ac == .a0 && f == .c) = true := by rw [Bool.not_eq_true]; exact Eq.mp (Bool.not_eq_true' _) h
    refine decodesBack_of_one_word enc eis _ _ rfl rfl ((decode_encodeIo_cpu enc eis ac 0b101#3 f 0).trans ?_)
    exact if_neg hdic
  | iorst => exact decodesBack_of_one_word enc eis _ _ rfl rfl (decode_encodeIo_cpu enc eis .a0 0b101#3 .c 0)
  | halt ac f => exact decodesBack_of_one_word enc eis _ _ rfl rfl (decode_encodeIo_cpu enc eis ac 0b110#3 f 0)
  | skpbnCpu ac => exact decodesBack_of_one_word enc eis _ _ rfl rfl (decode_encodeIo_cpu enc eis ac 0b111#3 .none 0)
  | skpbzCpu ac => exact decodesBack_of_one_word enc eis _ _ rfl rfl (decode_encodeIo_cpu enc eis ac 0b111#3 .s 0)
  | skpdnCpu ac => exact decodesBack_of_one_word enc eis _ _ rfl rfl (decode_encodeIo_cpu enc eis ac 0b111#3 .c 0)
  | skpdzCpu ac => exact decodesBack_of_one_word enc eis _ _ rfl rfl (decode_encodeIo_cpu enc eis ac 0b111#3 .p 0)
  | slei k => obtain rfl := h; exact decodesBack_of_one_word enc true _ _ rfl rfl (decode_encodeEi_of_immediateInstr enc false k 0b00#2 0 _ rfl)
  | sgri k => obtain rfl := h; exact decodesBack_of_one_word enc true _ _ rfl rfl (decode_encodeEi_of_immediateInstr enc false k 0b01#2 0 _ rfl)
  | seqi k => obtain rfl := h; exact decodesBack_of_one_word enc true _ _ rfl rfl (decode_encodeEi_of_immediateInstr enc false k 0b10#2 0 _ rfl)
  | snei k => obtain rfl := h; exact decodesBack_of_one_word enc true _ _ rfl rfl (decode_encodeEi_of_immediateInstr enc false k 0b11#2 0 _ rfl)
  | ldi k => obtain rfl := h; exact decodesBack_of_one_word enc true _ _ rfl rfl (decode_encodeEi_of_immediateInstr enc true k 0b00#2 0 _ rfl)
  | adi k => obtain rfl := h; exact decodesBack_of_one_word enc true _ _ rfl rfl (decode_encodeEi_of_immediateInstr enc true k 0b01#2 0 _ rfl)
  | sbi k => obtain rfl := h; exact decodesBack_of_one_word enc true _ _ rfl rfl (decode_encodeEi_of_immediateInstr enc true k 0b10#2 0 _ rfl)
  | clrb ind mask => obtain rfl := h; exact decodesBack_bit enc false false ind 0b01#2 mask (.clrb ind) (fun _ => rfl) rfl rfl
  | setb ind mask => obtain rfl := h; exact decodesBack_bit enc false false ind 0b10#2 mask (.setb ind) (fun _ => rfl) rfl rfl
  | togb ind mask => obtain rfl := h; exact decodesBack_bit enc false false ind 0b11#2 mask (.togb ind) (fun _ => rfl) rfl rfl
  | sbz ind mask => obtain rfl := h; exact decodesBack_bit enc true false ind 0b00#2 mask (.sbz ind) (fun _ => rfl) rfl rfl
  | sbo ind mask => obtain rfl := h; exact decodesBack_bit enc true true ind 0b00#2 mask (.sbo ind) (fun _ => rfl) rfl rfl
  | sbzc ind mask => obtain rfl := h; exact decodesBack_bit enc true false ind 0b01#2 mask (.sbzc ind) (fun _ => rfl) rfl rfl
  | sboc ind mask => obtain rfl := h; exact decodesBack_bit enc true true ind 0b01#2 mask (.sboc ind) (fun _ => rfl) rfl rfl
  | sbzs ind mask => obtain rfl := h; exact decodesBack_bit enc true false ind 0b10#2 mask (.sbzs ind) (fun _ => rfl) rfl rfl
  | sbos ind mask => obtain rfl := h; exact decodesBack_bit enc true true ind 0b10#2 mask (.sbos ind) (fun _ => rfl) rfl rfl
  | sbzt ind mask => obtain rfl := h; exact decodesBack_bit enc true false ind 0b11#2 mask (.sbzt ind) (fun _ => rfl) rfl rfl
  | sbot ind mask => obtain rfl := h; exact decodesBack_bit enc true true ind 0b11#2 mask (.sbot ind) (fun _ => rfl) rfl rfl
  | setsp ac => obtain rfl := h; exact decodesBack_of_one_word enc true _ _ rfl rfl (decode_encodeEs_of_stackInstr enc false ac 0b100#3 0 _ rfl)
  | redsp ac => obtain rfl := h; exact decodesBack_of_one_word enc true _ _ rfl rfl (decode_encodeEs_of_stackInstr enc false ac 0b000#3 0 _ rfl)
  | push ac => obtain rfl := h; exact decodesBack_of_one_word enc true _ _ rfl rfl (decode_encodeEs_of_stackInstr enc true ac 0b100#3 0 _ rfl)
  | pop ac => obtain rfl := h; exact decodesBack_of_one_word enc true _ _ rfl rfl (decode_encodeEs_of_stackInstr enc true ac 0b000#3 0 _ rfl)
  | pushjump a => obtain rfl := h; exact decodesBack_full enc 0b000100#6 a .pushjump (fun _ => rfl) rfl rfl
  | rpushjump a => obtain rfl := h; exact decodesBack_full enc 0b000101#6 a .rpushjump (fun _ => rfl) rfl rfl
  | i2pushjump a => obtain rfl := h; exact decodesBack_full enc 0b000110#6 a .i2pushjump (fun _ => rfl) rfl rfl
  | i3pushjump a => obtain rfl := h; exact decodesBack_full enc 0b000111#6 a .i3pushjump (fun _ => rfl) rfl rfl
  | popjump => obtain rfl := h; exact decodesBack_of_one_word enc true _ _ rfl rfl (decode_encodeEx_of_fullInstr enc 0b000000#6 0 _ rfl)
  | xload => obtain rfl := h; exact decodesBack_of_one_word enc true _ _ rfl rfl (decode_encodeEx_of_fullInstr enc 0b011000#6 0 _ rfl)
  | xstore => obtain rfl := h; exact decodesBack_of_one_word enc true _ _ rfl rfl (decode_encodeEx_of_fullInstr enc 0b011100#6 0 _ rfl)
  | tablsearch => obtain rfl := h; exact decodesBack_of_one_word enc true _ _ rfl rfl (decode_encodeEx_of_fullInstr enc 0b101000#6 0 _ rfl)
  | eisUnassigned w =>
    obtain ⟨rfl, hw⟩ := Bool.and_eq_true_iff.1 h
    exact decodesBack_of_one_word enc true _ w rfl rfl (decode_unassigned enc w 0 hw)
  | abinmultiply => exact decodesBack_param enc eis hwf .abinmultiply h rfl rfl
  | bindivide => exact decodesBack_param enc eis hwf .bindivide h rfl rfl
  | movewords => exact decodesBack_param enc eis hwf .movewords h rfl rfl
  | rmovwords => exact decodesBack_param enc eis hwf .rmovwords h rfl rfl
  | nybsl => exact decodesBack_param enc eis hwf .nybsl h rfl rfl
  | nybsr => exact decodesBack_param enc eis hwf .nybsr h rfl rfl
  | decadd => exact decodesBack_param enc eis hwf .decadd h rfl rfl
  | decsub => exact decodesBack_param enc eis hwf .decsub h rfl rfl
  | convert => exact decodesBack_param enc eis hwf .convert h rfl rfl
  | vjsr n => exact decodesBack_param enc eis hwf (.vjsr n) h rfl rfl
  | getbyte => exact decodesBack_param enc eis hwf .getbyte h rfl rfl
  | putbyte => exact decodesBack_param enc eis hwf .putbyte h rfl rfl
  | sgetbyte => exact decodesBack_param enc eis hwf .sgetbyte h rfl rfl
  | sputbyte => exact decodesBack_param enc eis hwf .sputbyte h rfl rfl
  | xgetbyte => exact decodesBack_param enc eis hwf .xgetbyte h rfl rfl
  | xputbyte => exact decodesBack_param enc eis hwf .xputbyte h rfl rfl
  | xsgetbyte => exact decodesBack_param enc eis hwf .xsgetbyte h rfl rfl
  | xsputbyte => exact decodesBack_param enc eis hwf .xsputbyte h rfl rfl
  | igetbyte d => exact decodesBack_param enc eis hwf (.igetbyte d) h rfl rfl
  | iputbyte d => exact decodesBack_param enc eis hwf (.iputbyte d) h rfl rfl
  | xtranslate => exact decodesBack_param enc eis hwf .xtranslate h rfl rfl
  | trace a => exact decodesBack_trace enc eis hwf a h

/-! ### Single words -/

/-- Settles O1: the decoder evaluated on the thirteen words. -/
theorem decodeOfWrittenWords : Obligations.DecodeOfWrittenWords :=
  ⟨rfl, rfl, rfl, rfl, rfl, rfl, rfl, rfl, rfl, rfl, rfl, rfl, rfl⟩

/-- Settles O26: DOA with code 77 and an unassigned word decode to the two instructions that are refused. -/
theorem undefinedInstructionsRefused : Obligations.UndefinedInstructionsRefused := by
  refine ⟨fun second enc eis s ac f => ?_, fun w second enc s h => ?_⟩
  · rw [decode_encodeIo_cpu enc eis ac 0b010#3 f second]; rfl
  · rw [decode_unassigned enc w second h]; rfl

end Sys2Proof.Proofs

/-! What executing an instruction can do at all: the parameters, the panels, XPC and memory's canonical form are kept by
every instruction but TRACE, RUN by all but HALT; an instruction completes, with ION_PENDING as R345 says, or it goes on
(R113, R324). -/

namespace Sys2Proof.Proofs

open Sys2Proof Sys2Proof.Machine Sys2Proof.Claims Sys2Proof.Laws

/-! ### What the operations of an instruction keep -/

/-- From `s` to `t` the parameters, the panels, XPC, RUN and what goes on are unchanged, EIS is set only where the jumpers are
in place (R30, R204), and memory stays in canonical form. -/
structure Keeps (s t : State) : Prop where
  cfg : t.cfg = s.cfg
  panels : t.panels = s.panels
  xpc : t.xpc = s.xpc
  run : t.run = s.run
  hung : t.hung = s.hung
  eis : t.eis = true → s.eis = true ∨ s.cfg.eisJumpers = true
  memWf : Memory.wf s.mem → Memory.wf t.mem

theorem keeps_refl (s : State) : Keeps s s := ⟨rfl, rfl, rfl, rfl, rfl, .inl, id⟩

theorem Keeps.trans {s t u : State} (h1 : Keeps s t) (h2 : Keeps t u) : Keeps s u where
  cfg := h2.cfg.trans h1.cfg
  panels := h2.panels.trans h1.panels
  xpc := h2.xpc.trans h1.xpc
  run := h2.run.trans h1.run
  hung := h2.hung.trans h1.hung
  eis h := (h2.eis h).elim h1.eis fun hj => .inr (h1.cfg ▸ hj)
  memWf h := h2.memWf (h1.memWf h)

theorem keeps_setAc (s : State) (n : Ac) (v : Word) : Keeps s (s.setAc n v) := by
  cases n <;> exact ⟨rfl, rfl, rfl, rfl, rfl, .inl, id⟩

theorem keeps_write (s : State) (a v : Word) : Keeps s (s.write a v) :=
  ⟨rfl, rfl, rfl, rfl, rfl, .inl, write_wf s a v⟩

theorem keeps_complete (s : State) (next : Word) : Keeps s (s.complete next) := ⟨rfl, rfl, rfl, rfl, rfl, .inl, id⟩

theorem keeps_advance (s : State) (len : Word) (skips : Bool) : Keeps s (s.advance len skips) :=
  keeps_complete s _

theorem keeps_drawn (s : State) (n : Nat) : Keeps s (s.drawn n) := ⟨rfl, rfl, rfl, rfl, rfl, .inl, id⟩

theorem keeps_proceeds (s : State) : Keeps s s.proceeds := ⟨rfl, rfl, rfl, rfl, rfl, .inl, id⟩

/-- Accumulators, carry, SP and the count of free values are no concern of `Keeps`. -/
theorem keeps_registers (s : State) (x0 x1 x2 x3 x4 : Word) (b : Bool) (n : Nat) :
    Keeps s { s with a0 := x0, a1 := x1, a2 := x2, a3 := x3, sp := x4, c := b, draws := n } :=
  ⟨rfl, rfl, rfl, rfl, rfl, .inl, id⟩

/-- Neither are the devices and the I/O history. -/
theorem keeps_io (s : State) (ds : List Device) (es : List IoEvent) :
    Keeps s { s with devices := ds, ioTrace := es } := ⟨rfl, rfl, rfl, rfl, rfl, .inl, id⟩

theorem keeps_gap (s : State) (live : Bool) : Keeps s (s.gap live) := by
  rw [gap_eq]; exact ⟨rfl, rfl, rfl, rfl, rfl, .inl, gap_wf s live⟩

theorem keeps_level (s : State) (ea : Word) : Keeps s (s.level ea) := by
  rw [level_eq]; exact ⟨rfl, rfl, rfl, rfl, rfl, .inl, level_wf s ea⟩

theorem keeps_followChain (n : Nat) (s : State) (ea : Word) : Keeps s (chainState (followChain n s ea)) := by
  rw [followChain_eq]; exact ⟨rfl, rfl, rfl, rfl, rfl, .inl, followChain_wf n s ea⟩

theorem keeps_perform (op : MemOp) (e : Word) (s : State) : Keeps s (op.perform e s) := by
  rw [perform_eq]; exact ⟨rfl, rfl, rfl, rfl, rfl, .inl, perform_wf op e s⟩

theorem keeps_stackFault (s : State) (saved : Word) : Keeps s (s.stackFault saved) :=
  ⟨rfl, rfl, rfl, rfl, rfl, .inl, setWord_wf _ _ _⟩

theorem keeps_putByte (s : State) (base b : Word) (v : Byte) : Keeps s (s.putByte base b v) := keeps_write s _ _

theorem keeps_pushed (s : State) (v : Word) : Keeps s (s.pushed v) :=
  ⟨rfl, rfl, rfl, rfl, rfl, .inl, pushed_wf s v⟩

theorem keeps_devTransferIn (s : State) (ac : Ac) (f : Ctrl) (d : DevCode) (b : Buf) :
    Keeps s (s.devTransferIn ac f d b) := by
  rw [devTransferIn_eq]; exact (keeps_setAc s ac _).trans (keeps_io _ _ _)

theorem keeps_devTransferOut (s : State) (ac : Ac) (f : Ctrl) (d : DevCode) (b : Buf) :
    Keeps s (s.devTransferOut ac f d b) := keeps_io s _ _

theorem keeps_ioReset (s : State) : Keeps s s.ioReset :=
  ⟨rfl, rfl, rfl, rfl, rfl, fun h => absurd h Bool.false_ne_true, id⟩

/-- The P pulse takes EIS from A0 only where the jumpers are in place (R204). -/
theorem keeps_cpuControl (s : State) (f : Ctrl) : Keeps s (s.cpuControl f) := by
  cases f with
  | none => exact keeps_refl s
  | s | c => exact ⟨rfl, rfl, rfl, rfl, rfl, .inl, id⟩
  | p =>
    refine ⟨rfl, rfl, rfl, rfl, rfl, fun h => ?_, id⟩
    by_cases hj : s.cfg.eisJumpers = true
    · exact .inr hj
    · exact .inl (by simpa [State.cpuControl, hj] using h)

/-! ### An instruction that completes -/

/-- The instruction has completed: ION_PENDING is cleared, or set together with ION by an S pulse to the processor (R202,
R345). -/
structure Completed (sets : Bool) (s t : State) : Prop extends Keeps s t where
  pending : t.ionPending = sets
  ion : sets = true → t.ion = true

theorem completed_complete {s u : State} (h : Keeps s u) (next : Word) : Completed false s (u.complete next) where
  toKeeps := h.trans (keeps_complete u next)
  pending := rfl
  ion h := absurd h Bool.false_ne_true

theorem completed_advance {s u : State} (h : Keeps s u) (len : Word) (skips : Bool) :
    Completed false s (u.advance len skips) := completed_complete h _

theorem completed_stackFault {s u : State} (h : Keeps s u) (saved : Word) : Completed false s (u.stackFault saved) where
  toKeeps := h.trans (keeps_stackFault u saved)
  pending := rfl
  ion h := absurd h Bool.false_ne_true

theorem completed_ite {sets : Bool} {s t u : State} {p : Prop} [Decidable p] (ht : Completed sets s t)
    (hu : Completed sets s u) : Completed sets s (if p then t else u) := by
  split
  · exact ht
  · exact hu

theorem completed_perform {s u : State} (h : Keeps s u) (op : MemOp) (e : Word) : Completed false s (op.perform e u) where
  toKeeps := h.trans (keeps_perform op e u)
  pending := by rw [perform_eq]
  ion h := absurd h Bool.false_ne_true

theorem completed_aluRun (fn : Word → Word → AluOut) (f : AluFields) (s : State) : Completed false s (aluRun fn f s) := by
  rw [aluRun_eq]
  refine completed_advance ?_ _ _
  cases f.nl
  · exact (keeps_setAc s _ _).trans ⟨rfl, rfl, rfl, rfl, rfl, .inl, id⟩
  · exact keeps_refl s

theorem completed_bitRun (t : BitTest) (act : Word → Word → Word) (ind : Bool) (mask : Word) (s : State) :
    Completed false s (bitRun t act ind mask s) := by
  refine completed_advance ?_ _ _
  cases ind
  · exact keeps_registers s _ _ _ _ _ _ _
  · exact (keeps_registers s _ _ _ _ _ _ _).trans (keeps_write _ _ _)

theorem completed_pushJumpTo (target : Word) (s : State) : Completed false s (pushJumpTo target s) :=
  completed_ite (completed_stackFault ((keeps_pushed s _).trans (keeps_drawn _ 1)) _)
    (completed_complete (keeps_pushed s _) _)

theorem completed_cpuDone {s u : State} (h : Keeps s u) (act : IoAction) (f : Ctrl) :
    Completed (f == .s) s (u.cpuDone act f) where
  toKeeps := h.trans (((keeps_io u _ _).trans (keeps_advance _ 1 false)).trans (keeps_cpuControl _ f))
  pending := by cases f <;> rfl
  ion hf := by obtain rfl : f = .s := by simpa using hf
               rfl

/-- The instruction completes in one step. -/
def CompletesAt (i : Instr) (s : State) : Prop := ∃ t, exec i s = .next t ∧ Completed (setsIon i) s t

theorem completesAt_memRef_direct (op : MemOp) (m : MemRef) (s : State) (h : m.ind = false) :
    Completed false s (memRef op m s) := by
  rw [memRef_direct op m s h]
  exact completed_perform (keeps_refl s) op _

/-- Every instruction that `oneStep` lists completes. -/
theorem completesAt_of_oneStep (i : Instr) (s : State) (h : oneStep i = true) : CompletesAt i s := by
  cases i with
  | jmp m => exact ⟨_, rfl, completesAt_memRef_direct _ m s ((Bool.not_eq_true' _).mp h)⟩
  | jsr m => exact ⟨_, rfl, completesAt_memRef_direct _ m s ((Bool.not_eq_true' _).mp h)⟩
  | isz m => exact ⟨_, rfl, completesAt_memRef_direct _ m s ((Bool.not_eq_true' _).mp h)⟩
  | dsz m => exact ⟨_, rfl, completesAt_memRef_direct _ m s ((Bool.not_eq_true' _).mp h)⟩
  | lda ac m => exact ⟨_, rfl, completesAt_memRef_direct _ m s ((Bool.not_eq_true' _).mp h)⟩
  | sta ac m => exact ⟨_, rfl, completesAt_memRef_direct _ m s ((Bool.not_eq_true' _).mp h)⟩
  | com f => exact ⟨_, rfl, completed_aluRun _ f s⟩
  | neg f => exact ⟨_, rfl, completed_aluRun _ f s⟩
  | mov f => exact ⟨_, rfl, completed_aluRun _ f s⟩
  | inc f => exact ⟨_, rfl, completed_aluRun _ f s⟩
  | adc f => exact ⟨_, rfl, completed_aluRun _ f s⟩
  | sub f => exact ⟨_, rfl, completed_aluRun _ f s⟩
  | add f => exact ⟨_, rfl, completed_aluRun _ f s⟩
  | and_ f => exact ⟨_, rfl, completed_aluRun _ f s⟩
  | nio ac f d => exact ⟨_, rfl, completed_advance (keeps_io s _ _) _ _⟩
  | dia ac f d => exact ⟨_, rfl, completed_advance (keeps_devTransferIn s _ _ _ _) _ _⟩
  | dib ac f d => exact ⟨_, rfl, completed_advance (keeps_devTransferIn s _ _ _ _) _ _⟩
  | dic ac f d => exact ⟨_, rfl, completed_advance (keeps_devTransferIn s _ _ _ _) _ _⟩
  | doa ac f d => exact ⟨_, rfl, completed_advance (keeps_devTransferOut s _ _ _ _) _ _⟩
  | dob ac f d => exact ⟨_, rfl, completed_advance (keeps_devTransferOut s _ _ _ _) _ _⟩
  | doc ac f d => exact ⟨_, rfl, completed_advance (keeps_devTransferOut s _ _ _ _) _ _⟩
  | skpbn ac d => exact ⟨_, rfl, completed_advance (keeps_io s _ _) _ _⟩
  | skpbz ac d => exact ⟨_, rfl, completed_advance (keeps_io s _ _) _ _⟩
  | skpdn ac d => exact ⟨_, rfl, completed_advance (keeps_io s _ _) _ _⟩
  | skpdz ac d => exact ⟨_, rfl, completed_advance (keeps_io s _ _) _ _⟩
  | nioCpu ac => exact ⟨_, rfl, completed_cpuDone (keeps_refl s) _ .none⟩
  | inten ac => exact ⟨_, rfl, completed_cpuDone (keeps_refl s) _ .s⟩
  | intds ac => exact ⟨_, rfl, completed_cpuDone (keeps_refl s) _ .c⟩
  | niopCpu ac => exact ⟨_, rfl, completed_cpuDone (keeps_refl s) _ .p⟩
  | reads ac f => exact ⟨_, rfl, completed_cpuDone (keeps_setAc s _ _) _ f⟩
  | inta ac f => exact ⟨_, rfl, completed_cpuDone (keeps_setAc s _ _) _ f⟩
  | msko ac f => exact ⟨_, rfl, completed_cpuDone (keeps_io s _ _) _ f⟩
  | dicCpu ac f => exact ⟨_, rfl, completed_cpuDone (keeps_ioReset s) _ f⟩
  | iorst => exact ⟨_, rfl, completed_cpuDone (keeps_ioReset s) _ .c⟩
  | skpbnCpu ac => exact ⟨_, rfl, completed_advance (keeps_io s _ _) _ _⟩
  | skpbzCpu ac => exact ⟨_, rfl, completed_advance (keeps_io s _ _) _ _⟩
  | skpdnCpu ac => exact ⟨_, rfl, completed_advance (keeps_io s _ _) _ _⟩
  | skpdzCpu ac => exact ⟨_, rfl, completed_advance (keeps_io s _ _) _ _⟩
  | slei k => exact ⟨_, rfl, completed_advance (keeps_refl s) _ _⟩
  | sgri k => exact ⟨_, rfl, completed_advance (keeps_refl s) _ _⟩
  | seqi k => exact ⟨_, rfl, completed_advance (keeps_refl s) _ _⟩
  | snei k => exact ⟨_, rfl, completed_advance (keeps_refl s) _ _⟩
  | ldi k => exact ⟨_, rfl, completed_advance (keeps_registers s _ _ _ _ _ _ _) _ _⟩
  | adi k => exact ⟨_, rfl, completed_advance (keeps_registers s _ _ _ _ _ _ _) _ _⟩
  | sbi k => exact ⟨_, rfl, completed_advance (keeps_registers s _ _ _ _ _ _ _) _ _⟩
  | clrb ind mask => exact ⟨_, rfl, completed_bitRun _ _ ind mask s⟩
  | setb ind mask => exact ⟨_, rfl, completed_bitRun _ _ ind mask s⟩
  | togb ind mask => exact ⟨_, rfl, completed_bitRun _ _ ind mask s⟩
  | sbz ind mask => exact ⟨_, rfl, completed_bitRun _ _ ind mask s⟩
  | sbo ind mask => exact ⟨_, rfl, completed_bitRun _ _ ind mask s⟩
  | sbzc ind mask => exact ⟨_, rfl, completed_bitRun _ _ ind mask s⟩
  | sboc ind mask => exact ⟨_, rfl, completed_bitRun _ _ ind mask s⟩
  | sbzs ind mask => exact ⟨_, rfl, completed_bitRun _ _ ind mask s⟩
  | sbos ind mask => exact ⟨_, rfl, completed_bitRun _ _ ind mask s⟩
  | sbzt ind mask => exact ⟨_, rfl, completed_bitRun _ _ ind mask s⟩
  | sbot ind mask => exact ⟨_, rfl, completed_bitRun _ _ ind mask s⟩
  | setsp ac => exact ⟨_, rfl, completed_advance (keeps_registers s _ _ _ _ _ _ _) _ _⟩
  | redsp ac => exact ⟨_, rfl, completed_advance (keeps_setAc s _ _) _ _⟩
  | push ac => exact ⟨_, rfl, completed_ite (completed_stackFault (keeps_pushed s _) _) (completed_advance (keeps_pushed s _) _ _)⟩
  | pop ac =>
    have hpop : Keeps s { s.setAc ac (s.read s.sp) with sp := s.sp + 1 } :=
      (keeps_setAc s ac _).trans ⟨rfl, rfl, rfl, rfl, rfl, .inl, id⟩
    exact ⟨_, rfl, completed_ite (completed_stackFault hpop _) (completed_advance hpop _ _)⟩
  | pushjump a => exact ⟨_, rfl, completed_pushJumpTo _ s⟩
  | rpushjump a => exact ⟨_, rfl, completed_pushJumpTo _ s⟩
  | i2pushjump a => exact ⟨_, rfl, completed_pushJumpTo _ s⟩
  | i3pushjump a => exact ⟨_, rfl, completed_pushJumpTo _ s⟩
  | popjump => exact ⟨_, rfl, completed_ite (completed_stackFault (keeps_registers s _ _ _ _ _ _ _) _) (completed_complete (keeps_registers s _ _ _ _ _ _ _) _)⟩
  | xload => exact ⟨_, rfl, completed_advance (keeps_registers s _ _ _ _ _ _ _) _ _⟩
  | xstore => exact ⟨_, rfl, completed_advance (keeps_write s _ _) _ _⟩
  | abinmultiply => exact ⟨_, rfl, completed_advance (keeps_registers s _ _ _ _ _ _ _) _ _⟩
  | bindivide => exact ⟨_, rfl, completed_ite (completed_advance (keeps_registers s _ _ _ _ _ _ _) _ _) (completed_advance (keeps_registers s _ _ _ _ _ _ _) _ _)⟩
  | decadd => exact ⟨_, rfl, completed_ite (completed_advance (keeps_registers s _ _ _ _ _ _ _) _ _) (completed_advance (keeps_registers s _ _ _ _ _ _ _) _ _)⟩
  | decsub => exact ⟨_, rfl, completed_ite (completed_advance (keeps_registers s _ _ _ _ _ _ _) _ _) (completed_advance (keeps_registers s _ _ _ _ _ _ _) _ _)⟩
  | convert => exact ⟨_, rfl, completed_ite (completed_advance (keeps_registers s _ _ _ _ _ _ _) _ _)
      (completed_ite (completed_advance (keeps_registers s _ _ _ _ _ _ _) _ _) (completed_advance (keeps_registers s _ _ _ _ _ _ _) _ _))⟩
  | vjsr k => exact ⟨_, rfl, completed_complete (keeps_setAc s _ _) _⟩
  | getbyte => exact ⟨_, rfl, completed_advance (keeps_registers s _ _ _ _ _ _ _) _ _⟩
  | sgetbyte => exact ⟨_, rfl, completed_advance (keeps_registers s _ _ _ _ _ _ _) _ _⟩
  | xgetbyte => exact ⟨_, rfl, completed_advance (keeps_registers s _ _ _ _ _ _ _) _ _⟩
  | xsgetbyte => exact ⟨_, rfl, completed_advance (keeps_registers s _ _ _ _ _ _ _) _ _⟩
  | putbyte => exact ⟨_, rfl, completed_advance (keeps_putByte s _ _ _) _ _⟩
  | xputbyte => exact ⟨_, rfl, completed_advance (keeps_putByte s _ _ _) _ _⟩
  | sputbyte => exact ⟨_, rfl, completed_advance ((keeps_putByte s _ _ _).trans (keeps_registers _ _ _ _ _ _ _ _)) _ _⟩
  | xsputbyte => exact ⟨_, rfl, completed_advance ((keeps_putByte s _ _ _).trans (keeps_registers _ _ _ _ _ _ _ _)) _ _⟩
  | igetbyte d => exact ⟨_, rfl, completed_ite (completed_advance (keeps_refl s) _ _)
      (completed_advance ((keeps_write s _ _).trans (keeps_registers _ _ _ _ _ _ _ _)) _ _)⟩
  | iputbyte d => exact ⟨_, rfl, completed_ite (completed_advance (keeps_refl s) _ _)
      (completed_advance ((keeps_write s _ _).trans (keeps_putByte _ _ _ _)) _ _)⟩
  | xtranslate => exact ⟨_, rfl, completed_ite (completed_complete (keeps_registers s _ _ _ _ _ _ _) _) (completed_complete (keeps_registers s _ _ _ _ _ _ _) _)⟩
  | doaCpu _ _ => exact absurd h Bool.false_ne_true
  | halt _ _ => exact absurd h Bool.false_ne_true
  | tablsearch => exact absurd h Bool.false_ne_true
  | movewords => exact absurd h Bool.false_ne_true
  | rmovwords => exact absurd h Bool.false_ne_true
  | eisUnassigned _ => exact absurd h Bool.false_ne_true
  | nybsl => exact absurd h Bool.false_ne_true
  | nybsr => exact absurd h Bool.false_ne_true
  | trace _ => exact absurd h Bool.false_ne_true

/-! ### An instruction that goes on, and one that stops for an interrupt -/

/-- The instruction goes on: what it has done so far is no more than `Keeps` allows, the interrupt flags are as before (R113,
R324). -/
structure GoesOn (s t : State) : Prop where
  hung : t.hung.isSome = true
  keeps : Keeps s { t with hung := s.hung }
  ion : t.ion = s.ion
  pending : t.ionPending = s.ionPending

theorem goesOn_goesOn {s u : State} (h : Keeps s u) (hion : u.ion = s.ion) (hpend : u.ionPending = s.ionPending)
    (what : Endless) : GoesOn s (u.goesOn what) where
  hung := rfl
  keeps := ⟨h.cfg, h.panels, h.xpc, h.run, rfl, h.eis, h.memWf⟩
  ion := hion
  pending := hpend

theorem memRef_outcome (op : MemOp) (m : MemRef) (s : State) :
    Completed false s (memRef op m s) ∨ GoesOn s (memRef op m s) := by
  cases hind : m.ind with
  | false => exact .inl (completesAt_memRef_direct op m s hind)
  | true =>
    have hkeeps := keeps_followChain chainLevels s (s.firstAddress m)
    cases hc : followChain chainLevels s (s.firstAddress m) with
    | address e t =>
      rw [hc] at hkeeps
      rw [memRef_address op m s t e hind hc]
      exact .inl (completed_perform hkeeps op e)
    | more ea t =>
      rw [memRef_more op m s t ea hind hc]
      exact .inr (goesOn_goesOn (keeps_level s _) (ion_level s _) (ionPending_level s _) _)

/-! ### The nybble shifts -/

theorem keeps_iteration {s u : State} (h : Keeps s u) (live : Bool) : Keeps s (u.gap live).proceeds :=
  (h.trans (keeps_gap u live)).trans (keeps_proceeds _)

theorem keeps_nybslLoop (live : Bool) (base : Word) (n : Nat) (nyb : BitVec 4) (s : State) :
    Keeps s (nybslLoop live base n nyb s).2 := by
  induction n generalizing nyb s with
  | zero => exact keeps_write s _ _
  | succ n ih => exact (keeps_iteration (keeps_write s _ _) live).trans (ih _ _)

theorem keeps_nybsrLoop (live : Bool) (n : Nat) (a : Word) (nyb : BitVec 4) (s : State) :
    Keeps s (nybsrLoop live n a nyb s).2 := by
  induction n generalizing a nyb s with
  | zero => exact keeps_write s _ _
  | succ n ih => exact (keeps_iteration (keeps_write s _ _) live).trans (ih _ _ _)

theorem completed_nybslRun (live : Bool) (s : State) : Completed false s (nybslRun live s) :=
  completed_advance ((keeps_nybslLoop live _ _ _ s).trans (keeps_registers _ _ _ _ _ _ _ _)) _ _

theorem completed_nybsrRun (live : Bool) (s : State) : Completed false s (nybsrRun live s) :=
  completed_advance ((keeps_nybsrLoop live _ _ _ s).trans (keeps_registers _ _ _ _ _ _ _ _)) _ _

/-! ### The block moves -/

/-- An instruction pauses only where an interrupt is due, which a pending delay forbids (R326, R343). -/
theorem ionPending_of_pauses (s : State) (h : s.pauses = true) : s.ionPending = false := by
  obtain ⟨-, hdue⟩ := Bool.and_eq_true_iff.1 h
  obtain ⟨h1, -⟩ := Bool.and_eq_true_iff.1 hdue
  obtain ⟨-, hpend⟩ := Bool.and_eq_true_iff.1 h1
  exact Eq.mp (Bool.not_eq_true' _) hpend

theorem keeps_moveLoop (live : Bool) (word : State → State) (hword : ∀ s, Keeps s (word s)) (n : Nat) (s : State) :
    Keeps s (moveLoop live word n s).1 ∧
      ((moveLoop live word n s).2 = false → (moveLoop live word n s).1.ionPending = false) := by
  induction n generalizing s with
  | zero => exact ⟨hword s, fun h => absurd h Bool.true_eq_false.mp⟩
  | succ n ih =>
    have hgap := (hword s).trans (keeps_gap (word s) live)
    unfold moveLoop
    by_cases hp : (live && ((word s).gap live).pauses) = true
    · rw [if_pos hp]
      exact ⟨hgap, fun _ => ionPending_of_pauses _ (Bool.and_eq_true_iff.1 hp).2⟩
    · rw [if_neg hp]
      obtain ⟨hk, hpend⟩ := ih ((word s).gap live).proceeds
      exact ⟨(hgap.trans (keeps_proceeds _)).trans hk, hpend⟩

theorem completed_moveRun (live : Bool) (word : State → State) (hword : ∀ s, Keeps s (word s)) (s : State) :
    Completed false s (moveRun live word s) := by
  obtain ⟨hk, hpend⟩ := keeps_moveLoop live word hword s.a0.toNat s
  unfold moveRun
  split
  next s1 finished heq =>
    rw [heq] at hk hpend
    cases finished with
    | true => exact completed_advance (hk.trans (keeps_registers _ _ _ _ _ _ _ _)) _ _
    | false => exact ⟨hk, hpend rfl, fun h => absurd h Bool.false_ne_true⟩

theorem keeps_moveWord (s : State) : Keeps s (moveWord s) := (keeps_write s _ _).trans (keeps_registers _ _ _ _ _ _ _ _)

theorem keeps_rmoveWord (s : State) : Keeps s (rmoveWord s) := (keeps_write s _ _).trans (keeps_registers _ _ _ _ _ _ _ _)

/-! ### The table search -/

/-- What a search has kept, and why it stands where it does (R324, R326). -/
def SearchKeeps (s : State) : Search → Prop
  | .found t => Keeps s t
  | .missed t => Keeps s t
  | .paused t => Keeps s t ∧ t.ionPending = false
  | .more t => Keeps s t ∧ t.ion = s.ion ∧ t.ionPending = s.ionPending

theorem searchKeeps_of_step {s u : State} (h : Keeps s u) (hion : u.ion = s.ion) (hpend : u.ionPending = s.ionPending)
    (r : Search) (hr : SearchKeeps u r) : SearchKeeps s r := by
  cases r with
  | found t => exact h.trans hr
  | missed t => exact h.trans hr
  | paused t => exact ⟨h.trans hr.1, hr.2⟩
  | more t =>
    obtain ⟨hk, hi, hp⟩ := hr
    exact ⟨h.trans hk, hi.trans hion, hp.trans hpend⟩

theorem ion_gap (s : State) (live : Bool) : (s.gap live).ion = s.ion := by rw [gap_eq]
theorem ionPending_gap (s : State) (live : Bool) : (s.gap live).ionPending = s.ionPending := by rw [gap_eq]

theorem searchKeeps_searchLoop (live : Bool) (n : Nat) (s : State) : SearchKeeps s (searchLoop live n s) := by
  induction n generalizing s with
  | zero => exact ⟨keeps_refl s, rfl, rfl⟩
  | succ n ih =>
    have hstep : Keeps s { s with a2 := s.a2 + s.a1 } := keeps_registers s _ _ _ _ _ _ _
    unfold searchLoop
    split
    · exact keeps_refl s
    · dsimp only
      split
      · exact hstep
      · have hgap := hstep.trans (keeps_gap { s with a2 := s.a2 + s.a1 } (live && n != 0))
        split
        next hp => exact ⟨hgap, ionPending_of_pauses _ (Bool.and_eq_true_iff.1 hp).2⟩
        next =>
          exact searchKeeps_of_step (hgap.trans (keeps_proceeds _)) (ion_gap _ _) (ionPending_gap _ _) _ (ih _)

theorem searchRun_outcome (live : Bool) (s : State) : Completed false s (searchRun live s) ∨ GoesOn s (searchRun live s) := by
  have h := searchKeeps_searchLoop live searchSteps s
  unfold searchRun
  cases hr : searchLoop live searchSteps s with
  | found t => rw [hr] at h; exact .inl (completed_advance h _ _)
  | missed t => rw [hr] at h; exact .inl (completed_advance h _ _)
  | paused t => rw [hr] at h; exact .inl ⟨h.1, h.2, fun hf => absurd hf Bool.false_ne_true⟩
  | more t =>
    rw [hr] at h
    obtain ⟨hk, hi, hp⟩ := h
    exact .inr (goesOn_goesOn hk hi hp _)

/-! ### Every instruction -/

/-- Is it one of the five long instructions (R326)? -/
def isLong (i : Instr) : Bool :=
  match i with
  | .nybsl | .nybsr | .movewords | .rmovwords | .tablsearch => true
  | _ => false

/-- The long instructions, with and without gaps between their iterations. -/
def longRun (live : Bool) (i : Instr) (s : State) : State :=
  match i with
  | .nybsl => nybslRun live s
  | .nybsr => nybsrRun live s
  | .movewords => moveRun live moveWord s
  | .rmovwords => moveRun live rmoveWord s
  | _ => searchRun live s

theorem exec_of_isLong (i : Instr) (s : State) (h : isLong i = true) : exec i s = .next (longRun true i s) := by
  cases i with
  | nybsl | nybsr | movewords | rmovwords | tablsearch => rfl
  | _ => exact absurd h Bool.false_ne_true

theorem remote_of_isLong (i : Instr) (s : State) (h : isLong i = true) : remote i s = .next (longRun false i s) := by
  cases i with
  | nybsl | nybsr | movewords | rmovwords | tablsearch => rfl
  | _ => exact absurd h Bool.false_ne_true

theorem setsIon_of_isLong (i : Instr) (h : isLong i = true) : setsIon i = false := by
  cases i with
  | nybsl | nybsr | movewords | rmovwords | tablsearch => rfl
  | _ => exact absurd h Bool.false_ne_true

theorem longRun_outcome (live : Bool) (i : Instr) (s : State) :
    Completed false s (longRun live i s) ∨ GoesOn s (longRun live i s) := by
  unfold longRun
  split
  · exact .inl (completed_nybslRun live s)
  · exact .inl (completed_nybsrRun live s)
  · exact .inl (completed_moveRun live _ keeps_moveWord s)
  · exact .inl (completed_moveRun live _ keeps_rmoveWord s)
  · exact searchRun_outcome live s

/-- An instruction other than TRACE and HALT that has a next state completes or goes on. -/
theorem exec_outcome (i : Instr) (s t : State) (htrace : ∀ a, i ≠ .trace a) (hhalt : ∀ ac f, i ≠ .halt ac f)
    (h : exec i s = .next t) : Completed (setsIon i) s t ∨ GoesOn s t := by
  by_cases hone : oneStep i = true
  · obtain ⟨u, hu, hdone⟩ := completesAt_of_oneStep i s hone
    obtain rfl := Host.Outcome.next.inj (hu.symm.trans h)
    exact .inl hdone
  · by_cases hlong : isLong i = true
    · obtain rfl := Host.Outcome.next.inj ((exec_of_isLong i s hlong).symm.trans h)
      rw [setsIon_of_isLong i hlong]
      exact longRun_outcome true i s
    · cases i with
      | jmp m | jsr m | isz m | dsz m | lda ac m | sta ac m =>
        obtain rfl := Host.Outcome.next.inj h
        exact memRef_outcome _ m s
      | halt ac f => exact absurd rfl (hhalt ac f)
      | trace a => exact absurd rfl (htrace a)
      | doaCpu ac f | eisUnassigned w => exact absurd h (by intro h; cases h)
      | nybsl | nybsr | movewords | rmovwords | tablsearch => exact absurd rfl hlong
      | _ => exact absurd rfl hone

/-- HALT is any other processor transfer on a processor that it has stopped (R210). -/
theorem exec_halt (ac : Ac) (f : Ctrl) (s : State) :
    ∃ t, exec (.halt ac f) s = .next t ∧ Completed (f == .s) { s with run := false } t :=
  ⟨_, rfl, completed_cpuDone (keeps_refl _) _ f⟩

/-- The remote instruction of a TRACE that is neither long nor refused has its own meaning. -/
theorem remote_eq_exec (i : Instr) (s : State) (hlong : isLong i = false) (htrace : ∀ a, i ≠ .trace a)
    (hhalt : ∀ ac f, i ≠ .halt ac f) : remote i s = exec i s := by
  cases i with
  | nybsl | nybsr | movewords | rmovwords | tablsearch => exact absurd hlong.symm Bool.false_ne_true
  | halt ac f => exact absurd rfl (hhalt ac f)
  | trace a => exact absurd rfl (htrace a)
  | _ => rfl

theorem remote_outcome (i : Instr) (s t : State) (h : remote i s = .next t) :
    Completed (setsIon i) s t ∨ GoesOn s t := by
  by_cases hlong : isLong i = true
  · obtain rfl := Host.Outcome.next.inj ((remote_of_isLong i s hlong).symm.trans h)
    rw [setsIon_of_isLong i hlong]
    exact longRun_outcome false i s
  · have htrace : ∀ a, i ≠ .trace a := by rintro a rfl; cases h
    have hhalt : ∀ ac f, i ≠ .halt ac f := by rintro ac f rfl; cases h
    rw [remote_eq_exec i s (Bool.eq_false_iff.2 hlong) htrace hhalt] at h
    exact exec_outcome i s t htrace hhalt h

/-! ### The obligation on ION_PENDING -/

/-- Settles O50: an instruction that completes leaves ION_PENDING as its completion says; one that goes on has not completed. -/
theorem interruptDelay : Obligations.InterruptDelay := by
  intro i s t htrace h hhung
  have hdone : ∃ u, Completed (setsIon i) u t := by
    by_cases hhalt : ∃ ac f, i = .halt ac f
    · obtain ⟨ac, f, rfl⟩ := hhalt
      obtain ⟨u, hu, hdone⟩ := exec_halt ac f s
      obtain rfl := Host.Outcome.next.inj (hu.symm.trans h)
      exact ⟨_, hdone⟩
    · rcases exec_outcome i s t htrace (fun ac f e => hhalt ⟨ac, f, e⟩) h with hdone | hon
      · exact ⟨s, hdone⟩
      · have hsome := hon.hung
        rw [hhung] at hsome
        exact absurd hsome Bool.false_ne_true
  obtain ⟨u, hdone⟩ := hdone
  exact ⟨fun hset => hset ▸ hdone.pending, fun hset => ⟨hdone.ion hset, hset ▸ hdone.pending⟩⟩

end Sys2Proof.Proofs

/-! The machine's invariant (spec/10_state.md section 3, 20_memory.md section 1, 60_exceptions.md section 4): what an
instruction does to it, then the processor's turn, the operator's acts, parity errors, and power. -/

namespace Sys2Proof.Proofs

open Sys2Proof Sys2Proof.Machine Sys2Proof.Claims Sys2Proof.Laws

/-! ### Changes that the invariant allows -/

theorem inv_of_keeps {s t : State} (h : Keeps s t) (hpend : t.ionPending = true → t.ion = true) (hinv : MachineInv s) :
    MachineInv t := by
  obtain ⟨hmem, heis, -, hhung, hrun⟩ := hinv
  refine ⟨h.memWf hmem, fun he => ?_, hpend, ?_, ?_⟩
  · rw [h.cfg]; exact (h.eis he).elim heis id
  · rw [h.hung, h.run, h.panels]; exact hhung
  · rw [h.run, h.panels]; exact hrun

theorem Completed.inv {sets : Bool} {s t : State} (h : Completed sets s t) (hinv : MachineInv s) : MachineInv t :=
  inv_of_keeps h.toKeeps (fun hp => h.ion (h.pending ▸ hp)) hinv

/-- The interrupt flags are as before. -/
theorem inv_of_keeps_same {s t : State} (h : Keeps s t) (hion : t.ion = s.ion) (hpend : t.ionPending = s.ionPending)
    (hinv : MachineInv s) : MachineInv t := by
  have hflags := hinv
  obtain ⟨-, -, hp, -, -⟩ := hflags
  exact inv_of_keeps h (by rw [hpend, hion]; exact hp) hinv

/-- The invariant after an instruction goes on: it goes on only while RUN is as it was (R113). -/
theorem GoesOn.inv {s t : State} (h : GoesOn s t) (hrun : s.run = true) (hinv : MachineInv s) : MachineInv t := by
  obtain ⟨hmem, heis, hp, -, hpower⟩ := inv_of_keeps_same h.keeps h.ion h.pending hinv
  exact ⟨hmem, heis, hp, fun _ => .inl (h.keeps.run.trans hrun), hpower⟩

/-- With no instruction going on the processor may stop (R354). -/
theorem inv_stopped {s : State} (hinv : MachineInv s) (hnone : s.hung = none) : MachineInv { s with run := false } := by
  obtain ⟨hmem, heis, hp, -, -⟩ := hinv
  refine ⟨hmem, heis, hp, fun h => ?_, fun h => absurd h Bool.false_ne_true⟩
  change s.hung.isSome = true at h
  rw [hnone] at h
  exact absurd h Bool.false_ne_true

theorem inv_no_hung {s : State} (hinv : MachineInv s) : MachineInv { s with hung := none } := by
  obtain ⟨hmem, heis, hp, -, hpower⟩ := hinv
  exact ⟨hmem, heis, hp, fun h => absurd h Bool.false_ne_true, hpower⟩

theorem inv_hung {s : State} (hinv : MachineInv s) (hrun : s.run = true) (h : Option Hung) :
    MachineInv { s with hung := h } := by
  obtain ⟨hmem, heis, hp, -, hpower⟩ := hinv
  exact ⟨hmem, heis, hp, fun _ => .inl hrun, hpower⟩

theorem inv_setData {s : State} (hinv : MachineInv s) (v : Word) : MachineInv (s.setData v) := hinv

theorem inv_showData {s : State} (hinv : MachineInv s) (v : Option Word) : MachineInv (s.showData v) := by
  cases v <;> exact hinv

theorem inv_traceEnd {s : State} (hinv : MachineInv s) : MachineInv s.traceEnd := by
  obtain ⟨hmem, heis, hp, hhung, hpower⟩ := hinv
  exact ⟨write_wf s _ _ hmem, heis, hp, hhung, hpower⟩

/-! ### An instruction from a state in which none goes on -/

/-- What an instruction, TRACE and HALT among them, does to the parts of the invariant where none goes on before it. -/
structure Executes (s t : State) : Prop where
  memWf : Memory.wf t.mem
  eis : t.eis = true → t.cfg.eisJumpers = true
  pending : t.ionPending = true → t.ion = true
  panels : t.panels = s.panels
  hung : t.hung.isSome = true → t.run = s.run
  run : t.run = true → s.run = true

theorem executes_of_inv {s t : State} (hinv : MachineInv t) (hpanels : t.panels = s.panels)
    (hhung : t.hung.isSome = true → t.run = s.run) (hrun : t.run = true → s.run = true) : Executes s t := by
  obtain ⟨hmem, heis, hp, -, -⟩ := hinv
  exact ⟨hmem, heis, hp, hpanels, hhung, hrun⟩

theorem Completed.executes {sets : Bool} {s t : State} (h : Completed sets s t) (hinv : MachineInv s) : Executes s t :=
  executes_of_inv (h.inv hinv) h.panels (fun _ => h.run) (h.run ▸ id)

theorem GoesOn.executes {s t : State} (h : GoesOn s t) (hinv : MachineInv s) : Executes s t := by
  obtain ⟨hmem, heis, hp, -, -⟩ := inv_of_keeps_same h.keeps h.ion h.pending hinv
  have hrun : t.run = s.run := h.keeps.run
  exact ⟨hmem, heis, hp, h.keeps.panels, fun _ => hrun, hrun ▸ id⟩

theorem outcome_executes {sets : Bool} {s t : State} (h : Completed sets s t ∨ GoesOn s t) (hinv : MachineInv s) :
    Executes s t := h.elim (fun hd => hd.executes hinv) fun hg => hg.executes hinv

theorem execTrace_executes (a : Word) (s t : State) (hinv : MachineInv s) (h : execTrace a s = .next t) :
    Executes s t := by
  have hstart : MachineInv (s.traceStart a) := hinv
  unfold execTrace at h
  split at h
  next u hu =>
    obtain ⟨hmem, heis, hp, hpanels, hhung, hrun⟩ := outcome_executes (remote_outcome _ _ u hu) hstart
    split at h
    next r hr =>
      obtain rfl := Host.Outcome.next.inj h
      exact ⟨hmem, heis, hp, hpanels, fun _ => hhung (by rw [hr]; rfl), hrun⟩
    next hr =>
      obtain rfl := Host.Outcome.next.inj h
      exact ⟨write_wf u _ _ hmem, heis, hp, hpanels, hhung, hrun⟩
  · cases h
  · cases h

theorem exec_executes (i : Instr) (s t : State) (hinv : MachineInv s) (hnone : s.hung = none) (h : exec i s = .next t) :
    Executes s t := by
  by_cases htrace : ∃ a, i = .trace a
  · obtain ⟨a, rfl⟩ := htrace
    exact execTrace_executes a s t hinv h
  · by_cases hhalt : ∃ ac f, i = .halt ac f
    · obtain ⟨ac, f, rfl⟩ := hhalt
      obtain ⟨u, hu, hdone⟩ := exec_halt ac f s
      obtain rfl := Host.Outcome.next.inj (hu.symm.trans h)
      have hnone' : u.hung = none := hdone.hung.trans hnone
      refine executes_of_inv (hdone.inv (inv_stopped hinv hnone)) hdone.panels (fun hs => ?_) fun hr => ?_
      · rw [hnone'] at hs; exact absurd hs Bool.false_ne_true
      · rw [hdone.run] at hr; exact absurd hr Bool.false_ne_true
    · exact outcome_executes
        (exec_outcome i s t (fun a e => htrace ⟨a, e⟩) (fun ac f e => hhalt ⟨ac, f, e⟩) h) hinv

/-- The instruction at the pc, with a read that a parity error has hit. -/
theorem execute_executes (s t : State) (hinv : MachineInv s) (hnone : s.hung = none) (h : s.execute = .next t) :
    Executes s t := by
  have hexec (u : State) (hu : exec s.nextInstr { s with ahead := none } = .next u) : Executes s u := by
    obtain ⟨hmem, heis, hp, hpanels, hhung, hrun⟩ := exec_executes _ { s with ahead := none } u hinv hnone hu
    exact ⟨hmem, heis, hp, hpanels, hhung, hrun⟩
  unfold State.execute at h
  dsimp only at h
  split at h
  · exact hexec t h
  · split at h
    next u hu =>
      obtain rfl := Host.Outcome.next.inj h
      obtain ⟨hmem, heis, hp, hpanels, hhung, hrun⟩ := hexec u hu
      exact ⟨hmem, heis, hp, hpanels, hhung, hrun⟩
    · cases h
    · cases h

theorem Executes.inv {s t : State} (h : Executes s t) (hrun : s.run = true) (hpower : s.panels.power = .on) :
    MachineInv t :=
  ⟨h.memWf, h.eis, h.pending, fun hs => .inl ((h.hung hs).trans hrun), fun _ => h.panels ▸ hpower⟩

/-! ### The processor's turn -/

theorem Keeps.no_hung {s t : State} (h : Keeps s t) : Keeps { s with hung := none } { t with hung := none } :=
  ⟨h.cfg, h.panels, h.xpc, h.run, rfl, h.eis, h.memWf⟩

theorem inv_finish (h : Hung) (t : State) (hinv : MachineInv t) (hnone : t.hung = none) : MachineInv (h.finish t) := by
  have hend : MachineInv (if h.traced then t.traceEnd else t) ∧ (if h.traced then t.traceEnd else t).hung = none := by
    split
    · exact ⟨inv_traceEnd hinv, hnone⟩
    · exact ⟨hinv, hnone⟩
  unfold Hung.finish
  dsimp only
  split
  · exact inv_showData (inv_stopped hend.1 hend.2) _
  · exact hend.1

theorem inv_resume (h : Hung) (s : State) (hrun : s.run = true) (hinv : MachineInv s) : MachineInv (h.resume s) := by
  unfold Hung.resume
  split
  next op ea _ =>
    have hkeeps := keeps_followChain 1 s ea
    split
    next e t heq =>
      rw [heq] at hkeeps
      have hdone := completed_perform hkeeps.no_hung op e
      exact inv_finish h _ (hdone.inv (inv_no_hung hinv)) hdone.hung
    next ea' t heq =>
      rw [heq] at hkeeps
      have ht : MachineInv t :=
        inv_of_keeps_same hkeeps (by rw [followChain_more _ _ _ _ _ heq]) (by rw [followChain_more _ _ _ _ _ heq]) hinv
      exact inv_hung ht (hkeeps.run.trans hrun) _
  next =>
    have hsearch := searchKeeps_searchLoop (!h.traced && !h.stepping) 1 s
    split
    next t heq =>
      rw [heq] at hsearch
      have hdone := completed_advance hsearch.no_hung 1 true
      exact inv_finish h _ (hdone.inv (inv_no_hung hinv)) hdone.hung
    next t heq =>
      rw [heq] at hsearch
      have hdone := completed_advance hsearch.no_hung 1 false
      exact inv_finish h _ (hdone.inv (inv_no_hung hinv)) hdone.hung
    next t heq =>
      rw [heq] at hsearch
      exact inv_no_hung (inv_of_keeps hsearch.1 (fun hp => absurd (hsearch.2 ▸ hp) Bool.false_ne_true) hinv)
    next t heq =>
      rw [heq] at hsearch
      obtain ⟨hk, hi, hp⟩ := hsearch
      exact inv_of_keeps_same hk hi hp hinv

theorem inv_rereads {s : State} (hinv : MachineInv s) : MachineInv s.rereads := hinv

theorem inv_interruptSave (s : State) (hinv : MachineInv s) : MachineInv s.interruptSave := by
  obtain ⟨hmem, heis, -, hhung, hpower⟩ := hinv
  exact ⟨setWord_wf _ _ _ hmem, heis, fun h => absurd h Bool.false_ne_true, hhung, hpower⟩

theorem inv_followChain (n : Nat) (s : State) (ea : Word) (hinv : MachineInv s) :
    MachineInv (chainState (followChain n s ea)) :=
  inv_of_keeps_same (keeps_followChain n s ea) (by rw [followChain_eq]) (by rw [followChain_eq]) hinv

theorem inv_chain (s : State) (ea : Word) (hinv : MachineInv s) : MachineInv (chainState (s.chain ea)) := by
  unfold State.chain
  split
  next heq => rw [← heq]; exact inv_followChain chainLevels s ea hinv
  next => exact inv_followChain 1 s ea hinv

theorem run_chain (s : State) (ea : Word) : (chainState (s.chain ea)).run = s.run := by
  unfold State.chain
  split
  next heq => rw [← heq]; exact (keeps_followChain chainLevels s ea).run
  next => exact (keeps_followChain 1 s ea).run

/-- The chain from location 1 under the other reading of the vector word may go on (R344). -/
theorem inv_interruptEntry (s : State) (hrun : s.run = true) (hinv : MachineInv s) : MachineInv s.interruptEntry := by
  have hchain := inv_chain s.interruptSave 0o1#16 (inv_interruptSave s hinv)
  have hrun' := (run_chain s.interruptSave 0o1#16).trans hrun
  unfold State.interruptEntry
  dsimp only
  split
  · exact inv_interruptSave s hinv
  · split
    next heq => rw [heq] at hchain; exact hchain
    next heq => rw [heq] at hchain hrun'; exact inv_hung hchain hrun' _

/-- The processor's turn (R343, R352). -/
theorem inv_turnTaken (s t : State) (hinv : MachineInv s) (h : s.turnTaken = .next t) : MachineInv t := by
  unfold State.turnTaken at h
  split at h
  next hrun =>
    split at h
    next r _ =>
      obtain rfl := Host.Outcome.next.inj h
      exact inv_rereads (inv_resume r s hrun hinv)
    next hnone =>
      split at h
      · obtain rfl := Host.Outcome.next.inj h
        exact inv_rereads (inv_interruptEntry s hrun hinv)
      · obtain ⟨-, -, -, -, hpower⟩ := id hinv
        exact (execute_executes s t hinv hnone h).inv hrun (hpower hrun)
  · obtain rfl := Host.Outcome.next.inj h
    exact hinv

theorem inv_processor (s t : State) (hinv : MachineInv s) (h : s.processor = .next t) : MachineInv t :=
  inv_turnTaken s.proceeds t hinv h

/-! ### The operator -/

theorem power_on_of_enabled (s : State) (p : Panel) (h : s.enabled p = true) : s.panels.power = .on := by
  obtain ⟨hpower, -⟩ := Bool.and_eq_true_iff.1 h
  exact beq_iff_eq.1 hpower

/-- Where the OCU is alive the lock of a parity halt is off, so that with the processor stopped nothing goes on. -/
theorem hung_none_of_enabled_ocu (s : State) (hinv : MachineInv s) (h : s.enabled .ocu = true) (hrun : s.run = false) :
    s.hung = none := by
  obtain ⟨-, -, -, hhung, -⟩ := hinv
  obtain ⟨-, halive⟩ := Bool.and_eq_true_iff.1 h
  obtain ⟨-, hunlocked⟩ := Bool.and_eq_true_iff.1 halive
  have hlock : s.panels.ocuLocked = false := Eq.mp (Bool.not_eq_true' _) hunlocked
  rw [hrun, hlock] at hhung
  by_contra hne
  rcases hhung (Option.isSome_iff_ne_none.2 hne) with h' | h' <;> exact absurd h' Bool.false_ne_true

/-- RUN may be set while power is on (R364, R367). -/
theorem inv_running {s : State} (hinv : MachineInv s) (hpower : s.panels.power = .on) :
    MachineInv { s with run := true } := by
  obtain ⟨hmem, heis, hp, -, -⟩ := hinv
  exact ⟨hmem, heis, hp, fun _ => .inl rfl, fun _ => hpower⟩

/-- Devices, I/O history, accumulators, carry, pc, SP and the like are no concern of the invariant, memory in canonical form
apart. -/
theorem inv_mem {s : State} (hinv : MachineInv s) (m : Memory) (hm : Memory.wf m) : MachineInv { s with mem := m } := by
  obtain ⟨-, heis, hp, hhung, hpower⟩ := hinv
  exact ⟨hm, heis, hp, hhung, hpower⟩

theorem inv_setAc {s : State} (hinv : MachineInv s) (n : Ac) (v : Word) : MachineInv (s.setAc n v) := by
  cases n <;> exact hinv

theorem inv_setPc {s : State} (hinv : MachineInv s) (a : Word) : MachineInv (s.setPc a) := hinv

theorem inv_stop {s : State} (hinv : MachineInv s) : MachineInv s.stop := by
  unfold State.stop
  split
  next h =>
    obtain ⟨-, hnone⟩ := Bool.and_eq_true_iff.1 h
    exact inv_stopped hinv (Option.isNone_iff_eq_none.1 hnone)
  · exact hinv

theorem inv_cont {s : State} (hinv : MachineInv s) (hpower : s.panels.power = .on) : MachineInv s.cont := by
  unfold State.cont
  split
  · exact hinv
  · exact inv_running hinv hpower

theorem inv_deposit {s : State} (hinv : MachineInv s) (a : Word) : MachineInv (s.deposit a) := by
  obtain ⟨hmem, -, -, -, -⟩ := id hinv
  exact inv_mem (inv_setPc hinv a) _ (setWord_wf _ _ _ hmem)

/-- After I/O Reset, with ION and its delay off, nothing going on and memory in canonical form, the invariant holds wherever
power is on if the processor runs (R392). -/
theorem inv_after_reset {t : State} (hmem : Memory.wf t.mem) (heis : t.eis = false) (hpend : t.ionPending = false)
    (hhung : t.hung = none) (hpower : t.run = true → t.panels.power = .on) : MachineInv t := by
  refine ⟨hmem, fun h => ?_, fun h => ?_, fun h => ?_, hpower⟩
  · exact absurd (heis ▸ h) Bool.false_ne_true
  · exact absurd (hpend ▸ h) Bool.false_ne_true
  · rw [hhung] at h; exact absurd h Bool.false_ne_true

theorem inv_ocuReset {s : State} (hinv : MachineInv s) : MachineInv s.ocuReset := by
  obtain ⟨hmem, -, -, -, -⟩ := hinv
  exact inv_after_reset hmem rfl rfl rfl fun h => absurd h Bool.false_ne_true

theorem inv_aplLoad {s : State} (hinv : MachineInv s) (hpower : s.panels.power = .on) : MachineInv s.aplLoad := by
  obtain ⟨hmem, -, -, -, -⟩ := hinv
  exact inv_after_reset (setWord_wf _ _ _ (loadProm_wf _ _ _ hmem)) rfl rfl rfl fun _ => hpower

theorem inv_apl (s t : State) (hinv : MachineInv s) (hpower : s.panels.power = .on) (h : s.apl = .next t) :
    MachineInv t := by
  have hload := inv_aplLoad hinv hpower
  unfold State.apl at h
  split at h
  · cases h
  · split at h
    · cases h
    · split at h
      · obtain rfl := Host.Outcome.next.inj h
        obtain ⟨hmem, -, -, -, -⟩ := id hload
        exact inv_mem hload (setWord s.aplLoad.mem 0o377#16 0o000377#16) (setWord_wf _ _ _ hmem)
      · obtain rfl := Host.Outcome.next.inj h
        exact hload

theorem inv_powerDown {s : State} (hinv : MachineInv s) (p : Power) : MachineInv (s.powerDown p) := by
  obtain ⟨hmem, heis, hp, -, -⟩ := hinv
  exact ⟨hmem, heis, hp, fun h => absurd h Bool.false_ne_true, fun h => absurd h Bool.false_ne_true⟩

theorem inv_turnKey {s : State} (hinv : MachineInv s) (k : Key) : MachineInv (s.turnKey k) := by
  have hkey : MachineInv { s with panels := { s.panels with key := k } } := hinv
  cases k with
  | on | auto => exact hkey
  | standby | off => exact inv_powerDown hkey _

/-- INST STEP: an instruction that goes on does so on a running processor, one that completes leaves it stopped (R368). -/
theorem inv_instStep (s t : State) (hinv : MachineInv s) (hnone : s.hung = none) (hpower : s.panels.power = .on)
    (h : s.instStep = .next t) : MachineInv t := by
  unfold State.instStep at h
  split at h
  next u hu =>
    obtain ⟨hmem, heis, hp, hpanels, -, -⟩ := execute_executes s.proceeds u hinv hnone hu
    split at h
    · obtain rfl := Host.Outcome.next.inj h
      exact ⟨hmem, heis, hp, fun _ => .inl rfl, fun _ => (congrArg Panels.power hpanels).trans hpower⟩
    next hnone' =>
      obtain rfl := Host.Outcome.next.inj h
      refine inv_showData (s := { u with run := false }) ⟨hmem, heis, hp, fun hs => ?_, fun hr => ?_⟩ _
      · change u.hung.isSome = true at hs
        rw [hnone'] at hs
        exact absurd hs Bool.false_ne_true
      · exact absurd (show false = true from hr) Bool.false_ne_true
  · cases h
  · cases h

/-- A control of the stopped processor (R362). -/
theorem inv_whenStopped {s t : State} {f : State → State} (hinv : MachineInv s) (h : s.whenStopped f = .next t)
    (hf : s.panels.power = .on → MachineInv (f s)) : MachineInv t := by
  obtain rfl := Host.Outcome.next.inj h
  split
  next halive =>
    obtain ⟨hon, -⟩ := Bool.and_eq_true_iff.1 halive
    exact hf (power_on_of_enabled s .ocu hon)
  · exact hinv

/-- An act that takes place or has no effect (R362). -/
theorem inv_ite {s t u : State} {p : Prop} [Decidable p] (hs : p → MachineInv s) (ht : MachineInv t)
    (h : (.next (if p then s else t) : Answer) = .next u) : MachineInv u := by
  obtain rfl := Host.Outcome.next.inj h
  split
  next hp => exact hs hp
  · exact ht

theorem inv_operate (s t : State) (a : PanelAct) (hinv : MachineInv s) (h : s.operate a = .next t) : MachineInv t := by
  cases a with
  | stop p => exact inv_ite (fun _ => inv_stop hinv) hinv h
  | cont p =>
    cases p with
    | mini => exact inv_ite (fun hon => inv_cont hinv (power_on_of_enabled s .mini hon)) hinv h
    | ocu => exact inv_ite (fun hon => inv_cont hinv (beq_iff_eq.1 (Bool.and_eq_true_iff.1 hon).1)) hinv h
  | apl p =>
    unfold State.operate at h
    dsimp only at h
    split at h
    next hon => exact inv_apl s t hinv (power_on_of_enabled s p hon) h
    · obtain rfl := Host.Outcome.next.inj h
      exact hinv
  | reset => exact inv_ite (fun _ => inv_ocuReset hinv) hinv h
  | start =>
    dsimp only [State.operate] at h
    exact inv_whenStopped hinv h fun hpower => inv_running (inv_setPc hinv s.panels.ocuData) hpower
  | instStep =>
    unfold State.operate at h
    dsimp only at h
    split at h
    next halive =>
      obtain ⟨hon, hrun⟩ := Bool.and_eq_true_iff.1 halive
      have hrun' : s.run = false := Eq.mp (Bool.not_eq_true' _) hrun
      exact inv_instStep s t hinv (hung_none_of_enabled_ocu s hinv hon hrun') (power_on_of_enabled s .ocu hon) h
    · obtain rfl := Host.Outcome.next.inj h
      exact hinv
  | exam | examNext | examPrev =>
    dsimp only [State.operate] at h
    exact inv_whenStopped hinv h (fun _ => inv_setData (inv_setPc hinv _) _)
  | dep stale =>
    dsimp only [State.operate] at h
    exact inv_whenStopped hinv h (fun _ => inv_deposit hinv _)
  | depNext =>
    dsimp only [State.operate] at h
    exact inv_whenStopped hinv h (fun _ => inv_deposit hinv _)
  | examAc n =>
    dsimp only [State.operate] at h
    exact inv_whenStopped hinv h (fun _ => inv_setData hinv _)
  | depAc n =>
    dsimp only [State.operate] at h
    exact inv_whenStopped hinv h (fun _ => inv_setAc hinv n _)
  | digit n => exact inv_ite (fun _ => inv_setData hinv _) hinv h
  | clearData => exact inv_ite (fun _ => inv_setData hinv _) hinv h
  | set64k =>
    dsimp only [State.operate] at h
    exact inv_whenStopped hinv h (fun _ => hinv)
  | key k =>
    obtain rfl := Host.Outcome.next.inj h
    exact inv_turnKey hinv k
  | miniSwitches v | selfTest b =>
    obtain rfl := Host.Outcome.next.inj h
    exact hinv

/-! ### Parity errors, devices and power -/

/-- The halt stops the processor; the lock allows an instruction to stay unfinished (R353). -/
theorem inv_parityHalt {s : State} (hinv : MachineInv s) : MachineInv s.parityHalt := by
  obtain ⟨hmem, heis, hp, -, -⟩ := hinv
  exact ⟨hmem, heis, hp, fun _ => .inr rfl, fun h => absurd h Bool.false_ne_true⟩

theorem inv_parityAt {s : State} (hinv : MachineInv s) (a : Word) : MachineInv (s.parityAt a) := by
  have hhalt := inv_parityHalt hinv
  exact hhalt

theorem inv_parityExam {s : State} (hinv : MachineInv s) (a : PanelAct) : MachineInv (s.parityExam a) := by
  unfold State.parityExam
  split
  next x _ =>
    have hhalt := inv_parityHalt (inv_setData (inv_setPc hinv x) s.freeWord)
    exact hhalt
  · exact hinv

theorem inv_parityChannel {s : State} (hinv : MachineInv s) (d : DevCode) (a : Word) : MachineInv (s.parityChannel d a) := by
  unfold State.parityChannel
  split
  · exact hinv
  · have hhalt := inv_parityHalt hinv
    exact hhalt

theorem inv_parityError {s : State} (hinv : MachineInv s) (p : ParityHit) : MachineInv (s.parityError p) := by
  unfold State.parityError
  split
  · cases p with
    | fetch => dsimp only; split <;> [exact inv_parityAt hinv s.pc; exact hinv]
    | data a => dsimp only; split <;> [exact inv_parityAt hinv a; exact hinv]
    | stepped a => dsimp only; split <;> [exact inv_parityAt hinv a; exact hinv]
    | examined k => dsimp only; split <;> [exact inv_parityExam hinv k; exact hinv]
    | channel d a => exact inv_parityChannel hinv d a
  · exact hinv

theorem inv_applyEnvs {s : State} (hinv : MachineInv s) (es : List EnvEvent) : MachineInv (es.foldl State.applyEnv s) := by
  rw [applyEnvs_eq]
  obtain ⟨hmem, -, -, -, -⟩ := id hinv
  exact inv_mem hinv _ (applyEnvs_wf es s hmem)

theorem inv_powerOn {s : State} (hinv : MachineInv s) (v : PowerUp) : MachineInv (s.powerOn v) := by
  obtain ⟨hmem, -, -, -, -⟩ := hinv
  refine inv_after_reset ?_ rfl rfl rfl fun _ => rfl
  unfold State.powerOn
  dsimp only
  split
  · exact hmem
  · exact memoryOf_wf v.mem

theorem inv_powerReturns {s : State} (hinv : MachineInv s) (v : PowerUp) : MachineInv (s.powerReturns v) := by
  unfold State.powerReturns
  split
  · exact inv_powerOn hinv v
  · exact hinv

/-- The batteries run down while power is off, when nothing runs (R71). -/
theorem inv_memKept {s : State} (hinv : MachineInv s) (b : Bool) :
    MachineInv { s with panels := { s.panels with memKept := b } } := hinv

theorem inv_take (s t : State) (i : Input) (hinv : MachineInv s) (h : s.take i = .next t) : MachineInv t := by
  cases i with
  | proceed => exact inv_processor s t hinv h
  | env e => exact inv_ite (fun _ => inv_applyEnvs hinv [e]) hinv h
  | between es => exact inv_ite (fun _ => inv_applyEnvs hinv es) hinv h
  | panel a => exact inv_operate s t a hinv h
  | parity p =>
    obtain rfl := Host.Outcome.next.inj h
    exact inv_parityError hinv p
  | powerLost => exact inv_ite (fun _ => inv_powerDown hinv _) hinv h
  | batteriesDischarged => exact inv_ite (fun _ => hinv) (inv_memKept hinv false) h
  | powerRestored v =>
    obtain rfl := Host.Outcome.next.inj h
    exact inv_powerReturns hinv v

/-! ### The obligations -/

/-- Settles O59: a step is the processor's turn or the next act listed, and each keeps the invariant. -/
theorem stepKeepsInvariant : Obligations.StepKeepsInvariant := by
  intro s t hinv h
  change s.turn = .next t at h
  unfold State.turn at h
  split at h
  · exact inv_processor s t hinv h
  next i rest _ => exact inv_take { s with inputs := rest } t i hinv h

/-- Settles O60: the machine after reset, field by field. -/
theorem resetMeetsInvariant : Obligations.ResetMeetsInvariant := by
  refine ⟨inv_after_reset reset_memory_wf rfl rfl rfl fun _ => rfl, rfl, rfl, rfl, rfl, rfl, rfl, rfl, fun x hx => ?_⟩
  simp only [State.reset, List.mem_cons, List.not_mem_nil, or_false] at hx
  rcases hx with rfl | rfl <;> exact ⟨rfl, rfl, rfl, rfl⟩

end Sys2Proof.Proofs

/-! What an instruction leaves alone, in the terms of the statements: the frame before completion, and the rules of memory
for bytes. -/

namespace Sys2Proof.Proofs

open Sys2Proof Sys2Proof.Machine Sys2Proof.Claims Sys2Proof.Laws

/-! ### The frame of an instruction before it completes -/

/-- Everything that `Plain` lists but ION_PENDING is unchanged. -/
structure Frame (s t : State) : Prop where
  flags : SameFlags s t
  setting : SameSetting s t
  devices : SameDevices s t
  sp : t.sp = s.sp
  xpc : t.xpc = s.xpc
  draws : t.draws = s.draws

theorem sameFlags_refl (s : State) : SameFlags s s := ⟨rfl, rfl, rfl, rfl, rfl, rfl⟩

theorem sameFlags_trans {s t u : State} (h1 : SameFlags s t) (h2 : SameFlags t u) : SameFlags s u := by
  obtain ⟨a1, a2, a3, a4, a5, a6⟩ := h1
  obtain ⟨b1, b2, b3, b4, b5, b6⟩ := h2
  exact ⟨b1.trans a1, b2.trans a2, b3.trans a3, b4.trans a4, b5.trans a5, b6.trans a6⟩

theorem sameSetting_refl (s : State) : SameSetting s s := ⟨rfl, rfl, rfl, rfl, rfl, rfl, .inl rfl⟩

theorem sameSetting_trans {s t u : State} (h1 : SameSetting s t) (h2 : SameSetting t u) : SameSetting s u := by
  obtain ⟨a1, a2, a3, a4, a5, a6, ha⟩ := h1
  obtain ⟨b1, b2, b3, b4, b5, b6, hb⟩ := h2
  refine ⟨b1.trans a1, b2.trans a2, b3.trans a3, b4.trans a4, b5.trans a5, b6.trans a6, ?_⟩
  rcases hb with hb | hb
  · rw [hb]; exact ha
  · exact .inr hb

theorem frame_refl (s : State) : Frame s s := ⟨sameFlags_refl s, sameSetting_refl s, ⟨rfl, rfl⟩, rfl, rfl, rfl⟩

theorem Frame.trans {s t u : State} (h1 : Frame s t) (h2 : Frame t u) : Frame s u where
  flags := sameFlags_trans h1.flags h2.flags
  setting := sameSetting_trans h1.setting h2.setting
  devices := ⟨h2.devices.1.trans h1.devices.1, h2.devices.2.trans h1.devices.2⟩
  sp := h2.sp.trans h1.sp
  xpc := h2.xpc.trans h1.xpc
  draws := h2.draws.trans h1.draws

theorem frame_setAc (s : State) (n : Ac) (v : Word) : Frame s (s.setAc n v) := by
  cases n <;> exact ⟨sameFlags_refl s, sameSetting_refl s, ⟨rfl, rfl⟩, rfl, rfl, rfl⟩

/-- Accumulators and carry are no concern of the frame. -/
theorem frame_registers (s : State) (x0 x1 x2 x3 : Word) (b : Bool) :
    Frame s { s with a0 := x0, a1 := x1, a2 := x2, a3 := x3, c := b } :=
  ⟨sameFlags_refl s, sameSetting_refl s, ⟨rfl, rfl⟩, rfl, rfl, rfl⟩

theorem frame_write (s : State) (a v : Word) : Frame s (s.write a v) :=
  ⟨sameFlags_refl s, ⟨rfl, rfl, rfl, rfl, rfl, rfl, misread_write_or s a v⟩, ⟨rfl, rfl⟩, rfl, rfl, rfl⟩

theorem Frame.plain_complete {s u : State} (h : Frame s u) (next : Word) : Plain s (u.complete next) :=
  ⟨h.flags, h.setting, h.devices, h.sp, h.xpc, h.draws, rfl⟩

theorem Frame.plain_advance {s u : State} (h : Frame s u) (len : Word) (skips : Bool) : Plain s (u.advance len skips) :=
  h.plain_complete _

theorem plainFree_of_plain {s t : State} (h : Plain s t) : PlainFree s t := by
  obtain ⟨h1, h2, h3, h4, h5, -, h6⟩ := h
  exact ⟨h1, h2, h3, h4, h5, h6⟩

/-- Free values may be taken (R11). -/
theorem Frame.plainFree_drawn_advance {s u : State} (h : Frame s u) (n : Nat) (len : Word) (skips : Bool) :
    PlainFree s ((u.drawn n).advance len skips) :=
  ⟨h.flags, h.setting, h.devices, h.sp, h.xpc, rfl⟩

/-! ### Accumulators -/

theorem acsBut_a0 {s t : State} (h1 : t.a1 = s.a1) (h2 : t.a2 = s.a2) (h3 : t.a3 = s.a3) : AcsBut .a0 s t := by
  intro k hk
  cases k
  case a0 => exact absurd rfl hk
  exacts [h1, h2, h3]

theorem acsBut_a2 {s t : State} (h0 : t.a0 = s.a0) (h1 : t.a1 = s.a1) (h3 : t.a3 = s.a3) : AcsBut .a2 s t := by
  intro k hk
  cases k
  case a2 => exact absurd rfl hk
  exacts [h0, h1, h3]

/-! ### Reads and writes -/

@[simp] theorem read_proceeds (s : State) (a : Word) : s.proceeds.read a = s.read a := rfl

theorem memoryBut_write (s : State) (a v : Word) : MemoryBut a s (s.write a v) :=
  fun b h0 h1 => memByte_write_other s a v b h0 h1

theorem sameMemory_refl (s : State) : SameMemory s s := fun _ => rfl

/-- With all 16 bits counting an address names its own word (R56). -/
theorem phys_full (s : State) (h : FullAddresses s) (a : Word) : s.phys a = a := by
  unfold State.phys
  rcases h with h | h <;> simp [h]

/-- A low address names its own word in either mode (R56). -/
theorem phys_low (s : State) (a : Word) (h : a.toNat < 32768) : s.phys a = a := by
  unfold State.phys
  split
  · refine BitVec.eq_of_toNat_eq ?_
    rw [BitVec.toNat_and]
    exact (Nat.and_two_pow_sub_one_eq_mod a.toNat 15).trans (Nat.mod_eq_of_lt h)
  · rfl

/-! ### One step (R343, R352; log 16) -/

theorem step_no_input (s : State) (h : s.inputs = []) : step s = s.proceeds.turnTaken := by
  simp only [step, State.turn, h, State.processor]

theorem step_input (s : State) (i : Input) (rest : List Input) (h : s.inputs = i :: rest) :
    step s = ({ s with inputs := rest } : State).take i := by
  simp only [step, State.turn, h]

theorem turnTaken_stopped (s : State) (h : s.run = false) : s.turnTaken = .next s := by
  simp only [State.turnTaken, h, Bool.false_eq_true, if_false]

theorem turnTaken_resumes (s : State) (r : Hung) (hrun : s.run = true) (hhung : s.hung = some r) :
    s.turnTaken = .next (r.resume s).rereads := by
  simp only [State.turnTaken, hrun, hhung, if_true]

theorem turnTaken_interrupt (s : State) (hrun : s.run = true) (hhung : s.hung = none) (hdue : s.interruptDue = true) :
    s.turnTaken = .next s.interruptEntry.rereads := by
  simp only [State.turnTaken, hrun, hhung, hdue, if_true]

theorem turnTaken_executes (s : State) (hrun : s.run = true) (hhung : s.hung = none) (hdue : s.interruptDue = false) :
    s.turnTaken = s.execute := by
  simp only [State.turnTaken, hrun, hhung, hdue, if_true, Bool.false_eq_true, if_false]

theorem run_succ_of_step (n : Nat) (s t : State) (h : step s = .next t) :
    Host.Core.run Sys2Proof.core (n + 1) s = Host.Core.run Sys2Proof.core n t := by
  have hcore : Sys2Proof.core.step s = .next t := h
  simp only [Host.Core.run, hcore]

end Sys2Proof.Proofs

/-! The memory reference instructions (spec/40_memory_reference.md): the first address (R110), one level of the indirect
sequence in numbers (R111, R112), whole sequences, endless ones (R113), and the six operations (R114 to R119). -/

namespace Sys2Proof.Proofs

open Sys2Proof Sys2Proof.Machine Sys2Proof.Claims Sys2Proof.Laws

/-! ### The first address (R110) -/

/-- A displacement is added with its sign, and the carry out of bit 15 is dropped (R84, D4). -/
theorem toNat_add_sext16 (x : Word) (d : BitVec 8) :
    ((x + sext16 d).toNat : Int) = ((x.toNat : Int) + d.toInt) % 65536 := by
  have hd : (sext16 d).toNat = (d.toInt % 65536).toNat := by
    unfold sext16 BitVec.signExtend
    rw [BitVec.toNat_ofInt]; rfl
  rw [BitVec.toNat_add, hd]
  omega

/-- Settles O5: each index mode is one of the four sums. -/
theorem firstAddress : Obligations.FirstAddress := by
  intro s m
  unfold State.firstAddress
  refine ⟨fun h => ?_, fun h => ?_, fun h => ?_, fun h => ?_⟩
  · rw [h]; exact toNat_zext16 m.d
  · rw [h]; exact toNat_add_sext16 s.pc m.d
  · rw [h]; exact toNat_add_sext16 s.a2 m.d
  · rw [h]; exact toNat_add_sext16 s.a3 m.d

/-! ### One level -/

theorem autoIncrement_iff (a : Word) : autoIncrement a = true ↔ 0o20 ≤ a.toNat ∧ a.toNat ≤ 0o27 := by
  simp [autoIncrement, BitVec.le_def]

theorem autoDecrement_iff (a : Word) : autoDecrement a = true ↔ 0o30 ≤ a.toNat ∧ a.toNat ≤ 0o37 := by
  simp [autoDecrement, BitVec.le_def]

theorem level_increments (s : State) (a : Word) (h : 0o20 ≤ (s.phys a).toNat ∧ (s.phys a).toNat ≤ 0o27) :
    s.levelWord a = s.read a + 1 ∧ s.level a = s.write a (s.read a + 1) := by
  have hi := (autoIncrement_iff _).2 h
  simp [State.level, State.levelWord, hi]

theorem level_decrements (s : State) (a : Word) (h : 0o30 ≤ (s.phys a).toNat ∧ (s.phys a).toNat ≤ 0o37) :
    s.levelWord a = s.read a - 1 ∧ s.level a = s.write a (s.read a - 1) := by
  have hd := (autoDecrement_iff _).2 h
  have hi : autoIncrement (s.phys a) = false := by
    rw [← Bool.not_eq_true, autoIncrement_iff]; omega
  simp [State.level, State.levelWord, hi, hd]

theorem level_reads (s : State) (a : Word) (h : (s.phys a).toNat < 0o20 ∨ 0o37 < (s.phys a).toNat) :
    s.levelWord a = s.read a ∧ s.level a = s := by
  have hi : autoIncrement (s.phys a) = false := by rw [← Bool.not_eq_true, autoIncrement_iff]; omega
  have hd : autoDecrement (s.phys a) = false := by rw [← Bool.not_eq_true, autoDecrement_iff]; omega
  obtain ⟨hl, hw⟩ := level_plain s a hi hd
  exact ⟨hw, hl⟩

/-- The three kinds of location in one: `v` is the address word, `t` the state after the level. -/
theorem level_of_cases (s t : State) (a v : Word)
    (h : if 0o20 ≤ (s.phys a).toNat ∧ (s.phys a).toNat ≤ 0o27 then v = s.read a + 1 ∧ t = s.write a v
      else if 0o30 ≤ (s.phys a).toNat ∧ (s.phys a).toNat ≤ 0o37 then v = s.read a - 1 ∧ t = s.write a v
      else v = s.read a ∧ t = s) : v = s.levelWord a ∧ t = s.level a := by
  split at h
  next hinc =>
    obtain ⟨rfl, rfl⟩ := h
    obtain ⟨hw, hl⟩ := level_increments s a hinc
    exact ⟨hw.symm, hl.symm⟩
  next hinc =>
    split at h
    next hdec =>
      obtain ⟨rfl, rfl⟩ := h
      obtain ⟨hw, hl⟩ := level_decrements s a hdec
      exact ⟨hw.symm, hl.symm⟩
    next hdec =>
      obtain ⟨rfl, rfl⟩ := h
      obtain ⟨hw, hl⟩ := level_reads t a (by omega)
      exact ⟨hw.symm, hl.symm⟩

/-- The top bit of an address word as a number. -/
theorem getLsbD_15_eq (v : Word) : v.getLsbD 15 = decide (32768 ≤ v.toNat) := by
  have hv := v.isLt
  have hbit := toNat_getLsbD v 15
  cases h : v.getLsbD 15 <;> rw [h] at hbit
  · exact (decide_eq_false (by rw [Bool.toNat_false] at hbit; omega)).symm
  · exact (decide_eq_true (by rw [Bool.toNat_true] at hbit; omega)).symm

theorem and_low15 (v : Word) : (v &&& 0o077777#16).toNat = v.toNat % 32768 := by
  rw [BitVec.toNat_and]
  exact Nat.and_two_pow_sub_one_eq_mod v.toNat 15

theorem chainEnds_64k (s : State) (v : Word) (h : s.mode64k = true) : s.chainEnds v = true := by
  simp [State.chainEnds, h]

theorem chainEnds_32k (s : State) (v : Word) (h : s.mode64k = false) : s.chainEnds v = decide (v.toNat < 32768) := by
  rw [State.chainEnds, h, Bool.false_or, getLsbD_15_eq, ← decide_not]
  exact decide_eq_decide.2 Nat.not_le

/-- In 32K mode a level whose address word has its top bit 0 is the last (R111). -/
theorem followChain_ends (n : Nat) (s : State) (a : Word) (hmode : s.mode64k = false)
    (h : (s.levelWord a).toNat < 32768) : followChain (n + 1) s a = .address (s.levelWord a) (s.level a) := by
  rw [followChain_succ, if_pos (by rw [chainEnds_32k s _ hmode]; exact decide_eq_true h)]

/-- In 32K mode a level whose address word has its top bit 1 goes on at its low 15 bits (R111, D28). -/
theorem followChain_continues (n : Nat) (s : State) (a b : Word) (hmode : s.mode64k = false)
    (h : (s.levelWord a).toNat = b.toNat + 32768) : followChain (n + 1) s a = followChain n (s.level a) b := by
  have hend : ¬ s.chainEnds (s.levelWord a) = true := by
    rw [chainEnds_32k s _ hmode, decide_eq_true_iff]; omega
  have hv := (s.levelWord a).isLt
  have hnext : s.levelWord a &&& 0o077777#16 = b := BitVec.eq_of_toNat_eq (by rw [and_low15]; omega)
  rw [followChain_succ, if_neg hend, hnext]

/-- Settles O6: the only level is one of the three kinds of location. -/
theorem indirectIn64kMode : Obligations.IndirectIn64kMode := by
  intro s a hmode
  have hphys : s.phys a = a := phys_full s (.inl hmode) a
  refine ⟨s.levelWord a, s.level a, ?_, ?_⟩
  · rw [show chainLevels = 65535 + 1 from rfl, followChain_succ, if_pos (chainEnds_64k s _ hmode)]
  · split
    next hinc =>
      obtain ⟨hw, hl⟩ := level_increments s a (by rwa [hphys])
      rw [hw, hl]
      exact ⟨rfl, read_write_same s a _, memoryBut_write s a _⟩
    next hinc =>
      split
      next hdec =>
        obtain ⟨hw, hl⟩ := level_decrements s a (by rwa [hphys])
        rw [hw, hl]
        exact ⟨rfl, read_write_same s a _, memoryBut_write s a _⟩
      next hdec =>
        obtain ⟨hw, hl⟩ := level_reads s a (by rw [hphys]; omega)
        rw [hw, hl]
        exact ⟨rfl, sameMemory_refl s⟩

/-! ### What a whole sequence leaves alone (R58, R112) -/

/-- A level writes no byte outside the words 20 to 37. -/
theorem memByte_level (s : State) (a : Word) (b : Nat) (hb : b < 2 * 0o20 ∨ 2 * 0o37 + 1 < b) :
    memByte (s.level a).mem b = memByte s.mem b := by
  unfold State.level
  split
  next h =>
    have hrange : 0o20 ≤ (s.phys a).toNat ∧ (s.phys a).toNat ≤ 0o37 := by
      rw [Bool.or_eq_true, autoIncrement_iff, autoDecrement_iff] at h; omega
    exact memByte_write_other s a _ b (by omega) (by omega)
  · rfl

theorem misread_level_or (s : State) (a : Word) : (s.level a).misread = s.misread ∨ (s.level a).misread = none := by
  unfold State.level
  split
  · exact misread_write_or s a _
  · exact .inl rfl

theorem memByte_followChain (n : Nat) (s : State) (a : Word) (b : Nat) (hb : b < 2 * 0o20 ∨ 2 * 0o37 + 1 < b) :
    memByte (chainState (followChain n s a)).mem b = memByte s.mem b := by
  induction n generalizing s a with
  | zero => rfl
  | succ n ih =>
    rw [followChain_succ]
    split
    · exact memByte_level s a b hb
    · exact (ih _ _).trans (memByte_level s a b hb)

theorem misread_followChain_or (n : Nat) (s : State) (a : Word) :
    (chainState (followChain n s a)).misread = s.misread ∨ (chainState (followChain n s a)).misread = none := by
  induction n generalizing s a with
  | zero => exact .inl rfl
  | succ n ih =>
    rw [followChain_succ]
    split
    · exact misread_level_or s a
    · rcases ih (s.level a) (s.levelWord a &&& 0o077777#16) with h | h
      · rw [h]; exact misread_level_or s a
      · exact .inr h

/-- Settles O8, by induction on the levels followed. -/
theorem chainWritesAutoIndexCellsOnly : Obligations.ChainWritesAutoIndexCellsOnly := by
  intro n s t a e h
  have ht : t = chainState (followChain n s a) := by rcases h with h | h <;> rw [h] <;> rfl
  rw [ht]
  refine ⟨memByte_followChain n s a, misread_followChain_or n s a, ?_⟩
  rw [followChain_eq n s a]

theorem frame_followChain (n : Nat) (s : State) (a : Word) : Frame s (chainState (followChain n s a)) := by
  have hmis := misread_followChain_or n s a
  rw [followChain_eq] at hmis ⊢
  exact ⟨sameFlags_refl s, ⟨rfl, rfl, rfl, rfl, rfl, rfl, hmis⟩, ⟨rfl, rfl⟩, rfl, rfl, rfl⟩

/-! ### The six operations -/

/-- Where the effective address is reached the instruction performs its operation there. -/
theorem memRef_reaches (op : MemOp) (m : MemRef) (s s1 : State) (e : Word) (h : Reaches s m e s1) :
    memRef op m s = op.perform e s1 := by
  unfold Reaches at h
  split at h
  next hind => exact memRef_address op m s s1 e hind h
  next hind =>
    obtain ⟨rfl, rfl⟩ := h
    exact memRef_direct op m s1 (Bool.eq_false_iff.2 hind)

theorem next_memRef {t u : State} (h : t = u) : (.next t : Answer) = .next u := congrArg Host.Outcome.next h

/-- The sequence changes memory only, and a pending parity error where it writes. -/
theorem reaches_eq (s s1 : State) (m : MemRef) (e : Word) (h : Reaches s m e s1) :
    s1 = { s with mem := s1.mem, misread := s1.misread } := by
  unfold Reaches at h
  split at h
  · exact followChain_address _ _ _ _ _ h
  · obtain ⟨-, rfl⟩ := h; rfl

theorem frame_reaches (s s1 : State) (m : MemRef) (e : Word) (h : Reaches s m e s1) : Frame s s1 := by
  unfold Reaches at h
  split at h
  · have hframe := frame_followChain chainLevels s (s.firstAddress m)
    rwa [h] at hframe
  · obtain ⟨-, rfl⟩ := h; exact frame_refl s1

/-- The registers after the sequence are those before it. -/
theorem registers_reaches (s s1 : State) (m : MemRef) (e : Word) (h : Reaches s m e s1) :
    SameAcs s s1 ∧ s1.c = s.c ∧ s1.pc = s.pc := by
  rw [reaches_eq s s1 m e h]
  exact ⟨fun k => by cases k <;> rfl, rfl, rfl⟩

/-- Settles O10: JMP only completes at the effective address, JSR loads A3 first. -/
theorem jumps : Obligations.Jumps := by
  intro s s1 m e h
  have hframe := frame_reaches s s1 m e h
  obtain ⟨hacs, hc, hpc⟩ := registers_reaches s s1 m e h
  refine ⟨⟨_, next_memRef (memRef_reaches .jmp m s s1 e h), rfl, fun k => ?_, hc, sameMemory_refl s1,
    hframe.plain_complete e⟩, ⟨_, next_memRef (memRef_reaches .jsr m s s1 e h), rfl, ?_, fun k hk => ?_, hc,
    sameMemory_refl s1, (hframe.trans (frame_setAc s1 .a3 _)).plain_complete e⟩⟩
  · exact (ac_complete s1 e k).trans (hacs k)
  · exact congrArg (· + 1) hpc
  · exact ((ac_complete _ e k).trans (ac_setAc_other s1 .a3 k _ hk)).trans (hacs k)

/-- A word that is stored at the effective address; the pc goes to the next word or past it. -/
theorem store_reaches (s s1 : State) (m : MemRef) (e v : Word) (skips : Bool) (h : Reaches s m e s1) :
    ((s1.write e v).advance 1 skips).read e = v ∧ MemoryBut e s1 ((s1.write e v).advance 1 skips) ∧
      ((s1.write e v).advance 1 skips).pc = (if skips = true then s.pc + 2 else s.pc + 1) ∧
      SameAcs s ((s1.write e v).advance 1 skips) ∧ ((s1.write e v).advance 1 skips).c = s.c ∧
      Plain s ((s1.write e v).advance 1 skips) := by
  obtain ⟨hacs, hc, hpc⟩ := registers_reaches s s1 m e h
  refine ⟨read_write_same s1 e v, memoryBut_write s1 e v, ?_, fun k => (ac_advance _ _ _ k).trans ?_, hc,
    ((frame_reaches s s1 m e h).trans (frame_write s1 e v)).plain_advance _ _⟩
  · rw [pc_advance, pc_write, hpc]
    split
    · rw [BitVec.add_assoc]; rfl
    · rfl
  · exact (ac_write s1 e v k).trans (hacs k)

theorem add_one_eq_zero_iff (x : Word) : (x + 1 == 0) = true ↔ x = 0o177777#16 := by
  rw [beq_iff_eq, ← BitVec.toNat_inj, ← BitVec.toNat_inj, BitVec.toNat_add]
  have := x.isLt
  simp; omega

theorem sub_one_eq_zero_iff (x : Word) : (x - 1 == 0) = true ↔ x = 1 := by
  rw [beq_iff_eq, ← BitVec.toNat_inj, ← BitVec.toNat_inj, BitVec.toNat_sub]
  have := x.isLt
  simp; omega

/-- Settles O11: ISZ and DSZ store the stepped word and skip when it is zero. -/
theorem modifyMemory : Obligations.ModifyMemory := by
  intro s s1 m e h
  obtain ⟨iread, imem, ipc, iacs, ic, iplain⟩ := store_reaches s s1 m e (s1.read e + 1) (s1.read e + 1 == 0) h
  obtain ⟨dread, dmem, dpc, dacs, dc, dplain⟩ := store_reaches s s1 m e (s1.read e - 1) (s1.read e - 1 == 0) h
  refine ⟨⟨_, next_memRef (memRef_reaches .isz m s s1 e h), ?_, imem, ?_, iacs, ic, iplain⟩,
    ⟨_, next_memRef (memRef_reaches .dsz m s s1 e h), ?_, dmem, ?_, dacs, dc, dplain⟩⟩
  · exact (congrArg BitVec.toNat iread).trans (BitVec.toNat_add _ _)
  · exact ipc.trans (if_congr (add_one_eq_zero_iff _) rfl rfl)
  · refine (congrArg BitVec.toNat dread).trans ?_
    rw [BitVec.toNat_sub, Nat.add_comm]; rfl
  · exact dpc.trans (if_congr (sub_one_eq_zero_iff _) rfl rfl)

/-- An accumulator that is loaded after the sequence. -/
theorem load_reaches (s s1 : State) (m : MemRef) (e : Word) (ac : Ac) (v : Word) (h : Reaches s m e s1) :
    ((s1.setAc ac v).advance 1 false).ac ac = v ∧ AcsBut ac s ((s1.setAc ac v).advance 1 false) ∧
      ((s1.setAc ac v).advance 1 false).c = s.c ∧ ((s1.setAc ac v).advance 1 false).pc = s.pc + 1 ∧
      SameMemory s1 ((s1.setAc ac v).advance 1 false) ∧ Plain s ((s1.setAc ac v).advance 1 false) := by
  obtain ⟨hacs, hc, hpc⟩ := registers_reaches s s1 m e h
  refine ⟨?_, fun k hk => ?_, ?_, ?_, fun b => ?_,
    ((frame_reaches s s1 m e h).trans (frame_setAc s1 ac v)).plain_advance _ _⟩
  · rw [ac_advance, ac_setAc_same]
  · exact ((ac_advance _ _ _ k).trans (ac_setAc_other s1 ac k v hk)).trans (hacs k)
  · rw [c_advance, c_setAc, hc]
  · rw [pc_advance, if_neg Bool.false_ne_true, pc_setAc, hpc]
  · rw [mem_advance, mem_setAc]

/-- Settles O12: LDA is one load after the sequence, STA one store. -/
theorem moveData : Obligations.MoveData := by
  intro s s1 ac m e h
  obtain ⟨lac, lacs, lc, lpc, lmem, lplain⟩ := load_reaches s s1 m e ac (s1.read e) h
  obtain ⟨sread, smem, spc, sacs, sc, splain⟩ := store_reaches s s1 m e (s1.ac ac) false h
  obtain ⟨hacs, -, -⟩ := registers_reaches s s1 m e h
  exact ⟨⟨_, next_memRef (memRef_reaches (.lda ac) m s s1 e h), lac, lacs, lc, lpc, lmem, lplain⟩,
    ⟨_, next_memRef (memRef_reaches (.sta ac) m s s1 e h), sread.trans (hacs ac), smem, sacs, sc, spc, splain⟩⟩

/-! ### Whole sequences in 32K mode -/

theorem toNat_pageZero (d : BitVec 8) : (d.setWidth 16 : Word).toNat = d.toNat := toNat_zext16 d

theorem phys_pageZero (s : State) (d : BitVec 8) : s.phys (d.setWidth 16) = d.setWidth 16 := by
  have hd := d.isLt
  exact phys_low s _ (by rw [toNat_pageZero]; omega)

theorem level_pageZero (s : State) (d : BitVec 8) (h : d.toNat < 0o20 ∨ 0o37 < d.toNat) :
    s.levelWord (d.setWidth 16) = s.read (d.setWidth 16) ∧ s.level (d.setWidth 16) = s :=
  level_reads s _ (by rw [phys_pageZero, toNat_pageZero]; exact h)

theorem toNat_add_high_bit (b : Word) (h : b.toNat < 32768) : (b + 0o100000#16).toNat = b.toNat + 32768 := by
  rw [BitVec.toNat_add]
  change (b.toNat + 32768) % 65536 = _
  omega

/-- A page-zero word with its top bit set names the second address word, which ends the sequence. -/
theorem reaches_second_level (s : State) (d : BitVec 8) (b e : Word) (hmode : s.mode64k = false)
    (hd : d.toNat < 0o20 ∨ 0o37 < d.toNat) (hb : b.toNat < 0o20 ∨ 0o37 < b.toNat) (hb15 : b.toNat < 32768)
    (he15 : e.toNat < 32768) (hfirst : s.read (d.setWidth 16) = b + 0o100000#16) (hsecond : s.read b = e) :
    Reaches s ⟨true, .pageZero, d⟩ e s := by
  obtain ⟨hw1, hl1⟩ := level_pageZero s d hd
  obtain ⟨hw2, hl2⟩ := level_reads s b (by rw [phys_low s b hb15]; exact hb)
  have hgo := followChain_continues 65535 s (d.setWidth 16) b hmode (by rw [hw1, hfirst, toNat_add_high_bit b hb15])
  have hend := followChain_ends 65534 s b hmode (by rw [hw2, hsecond]; exact he15)
  rw [hw2, hl2, hsecond] at hend
  rw [hl1] at hgo
  exact hgo.trans hend

/-- The auto-increment location steps from 077777 to 100000, whose top bit goes on at location 0. -/
theorem reaches_through_zero (s : State) (d : BitVec 8) (hmode : s.mode64k = false) (hlo : 0o20 ≤ d.toNat)
    (hhi : d.toNat ≤ 0o27) (hread : s.read (d.setWidth 16) = 0o77777#16) (hzero : (s.read 0).toNat < 32768) :
    Reaches s ⟨true, .pageZero, d⟩ (s.read 0) (s.write (d.setWidth 16) 0o100000#16) := by
  obtain ⟨hw1, hl1⟩ := level_increments s (d.setWidth 16) (by rw [phys_pageZero, toNat_pageZero]; exact ⟨hlo, hhi⟩)
  rw [hread] at hw1 hl1
  have hother : (s.write (d.setWidth 16) 0o100000#16).read 0 = s.read 0 := by
    refine read_write_other s _ 0 _ fun h => ?_
    rw [phys_pageZero, phys_low s 0 (by decide)] at h
    have := congrArg BitVec.toNat h
    rw [toNat_pageZero] at this
    change 0 = d.toNat at this
    omega
  obtain ⟨hw2, hl2⟩ := level_reads (s.write (d.setWidth 16) 0o100000#16) 0
    (by rw [phys_write, phys_low s 0 (by decide)]; decide)
  have hgo := followChain_continues 65535 s (d.setWidth 16) 0 hmode (by rw [hw1]; rfl)
  have hend := followChain_ends 65534 (s.write (d.setWidth 16) 0o100000#16) 0 hmode (by rw [hw2, hother]; exact hzero)
  rw [hw2, hl2, hother] at hend
  rw [hl1] at hgo
  exact hgo.trans hend

/-- The auto-decrement location steps from 100000 to 077777, whose top bit ends the sequence. -/
theorem reaches_decremented (s : State) (d : BitVec 8) (hmode : s.mode64k = false) (hlo : 0o30 ≤ d.toNat)
    (hhi : d.toNat ≤ 0o37) (hread : s.read (d.setWidth 16) = 0o100000#16) :
    Reaches s ⟨true, .pageZero, d⟩ 0o77777#16 (s.write (d.setWidth 16) 0o77777#16) := by
  obtain ⟨hw1, hl1⟩ := level_decrements s (d.setWidth 16) (by rw [phys_pageZero, toNat_pageZero]; exact ⟨hlo, hhi⟩)
  rw [hread] at hw1 hl1
  have hend := followChain_ends 65535 s (d.setWidth 16) hmode (by rw [hw1]; decide)
  rw [hw1, hl1] at hend
  exact hend

/-- JMP through a location that the sequence has stepped to `v`. -/
theorem jmp_stepped (s : State) (d : BitVec 8) (e v : Word)
    (h : Reaches s ⟨true, .pageZero, d⟩ e (s.write (d.setWidth 16) v)) :
    ∃ t, exec (.jmp ⟨true, .pageZero, d⟩) s = .next t ∧ t.pc = e ∧ t.read (d.setWidth 16) = v ∧ SameAcs s t ∧
      t.c = s.c ∧ MemoryBut (d.setWidth 16) s t ∧ Plain s t :=
  ⟨_, next_memRef (memRef_reaches .jmp _ s _ e h), rfl, read_write_same s _ v,
    fun k => (ac_complete _ e k).trans (ac_write s _ v k), rfl, memoryBut_write s _ v,
    (frame_write s _ v).plain_complete e⟩

/-- Settles O7: one level of each kind, and from two of them the three whole sequences. -/
theorem indirectIn32kMode : Obligations.IndirectIn32kMode := by
  refine ⟨fun n s t a v hmode hlevel => ?_, fun s ac d b e hmode hd hb hb15 he15 hfirst hsecond => ?_,
    fun s d hmode hlo hhi hread hzero => ?_, fun s d hmode hlo hhi hread => ?_⟩
  · obtain ⟨rfl, rfl⟩ := level_of_cases s t a v hlevel
    have hv := (s.levelWord a).isLt
    refine ⟨followChain_ends n s a hmode, fun h => followChain_continues n s a _ hmode ?_⟩
    rw [BitVec.toNat_ofNat]
    omega
  · have hreach := reaches_second_level s d b e hmode hd hb hb15 he15 hfirst hsecond
    exact ⟨_, next_memRef (memRef_reaches (.lda ac) _ s s e hreach), load_reaches s s _ e ac (s.read e) hreach⟩
  · exact jmp_stepped s d _ _ (reaches_through_zero s d hmode hlo hhi hread hzero)
  · exact jmp_stepped s d _ _ (reaches_decremented s d hmode hlo hhi hread)

/-! ### An endless sequence (R113) -/

/-- A word that names itself with its top bit set is followed for ever, and nothing changes. -/
theorem followChain_self (n : Nat) (s : State) (d : BitVec 8) (hmode : s.mode64k = false)
    (hd : d.toNat < 0o20 ∨ 0o37 < d.toNat) (hself : s.read (d.setWidth 16) = d.setWidth 16 + 0o100000#16) :
    followChain n s (d.setWidth 16) = .more (d.setWidth 16) s := by
  have hlt := d.isLt
  have hlow : (d.setWidth 16 : Word).toNat < 32768 := by rw [toNat_pageZero]; omega
  obtain ⟨hw, hl⟩ := level_pageZero s d hd
  induction n with
  | zero => rfl
  | succ n ih =>
    rw [followChain_continues n s _ (d.setWidth 16) hmode (by rw [hw, hself, toNat_add_high_bit _ hlow]), hl, ih]

/-- An instruction whose sequence goes on for one more level. -/
theorem resume_goes_on (r : Hung) (s t : State) (op : MemOp) (ea ea' : Word) (hwhat : r.what = .chain op ea)
    (hchain : followChain 1 s ea = .more ea' t) :
    r.resume s = { t with hung := some { r with what := .chain op ea' } } := by
  simp only [Hung.resume, hwhat, hchain]

/-- An instruction that goes on through such a word stands still, whatever interrupts are due. -/
theorem step_of_endless (s : State) (d : BitVec 8) (hmode : s.mode64k = false) (hrun : s.run = true)
    (hinputs : s.inputs = []) (hmis : s.misread = none) (hdch : s.dchServed = false)
    (hd : d.toNat < 0o20 ∨ 0o37 < d.toNat) (hself : s.read (d.setWidth 16) = d.setWidth 16 + 0o100000#16) :
    step (s.goesOn (.chain .jmp (d.setWidth 16))) = .next (s.goesOn (.chain .jmp (d.setWidth 16))) := by
  have hproceeds : (s.goesOn (.chain .jmp (d.setWidth 16))).proceeds = s.goesOn (.chain .jmp (d.setWidth 16)) := by
    simp only [State.proceeds, State.goesOn, hdch]
  have hchain := followChain_self 1 (s.goesOn (.chain .jmp (d.setWidth 16))) d hmode hd hself
  rw [step_no_input (s.goesOn _) hinputs, hproceeds, turnTaken_resumes (s.goesOn _) ⟨.chain .jmp (d.setWidth 16), false, false⟩ hrun rfl,
    resume_goes_on ⟨.chain .jmp (d.setWidth 16), false, false⟩ _ _ .jmp _ _ rfl hchain]
  simp only [State.rereads, State.goesOn, hmis]

/-- Settles O9: the sequence goes on at its own word, and so does every step after it. -/
theorem endlessChainIsStuck : Obligations.EndlessChainIsStuck := by
  intro s d hmode hrun hinputs hmis hdch hd hself
  have hlt := d.isLt
  have hchain := followChain_self chainLevels s d hmode hd hself
  obtain ⟨hw, hl⟩ := level_pageZero s d hd
  have hnext : s.read (d.setWidth 16) &&& 0o077777#16 = d.setWidth 16 := by
    refine BitVec.eq_of_toNat_eq ?_
    rw [and_low15, hself, toNat_add_high_bit _ (by rw [toNat_pageZero]; omega), toNat_pageZero]
    omega
  have hexec : exec (.jmp ⟨true, .pageZero, d⟩) s = .next (s.goesOn (.chain .jmp (d.setWidth 16))) := by
    refine next_memRef ((memRef_more .jmp ⟨true, .pageZero, d⟩ s s (d.setWidth 16) rfl hchain).trans ?_)
    change (s.level (d.setWidth 16)).goesOn (.chain .jmp (s.levelWord (d.setWidth 16) &&& 0o077777#16)) = _
    rw [hw, hl, hnext]
  refine ⟨_, hexec, rfl, rfl, fun n => ?_⟩
  have hstep := step_of_endless s d hmode hrun hinputs hmis hdch hd hself
  induction n with
  | zero => rfl
  | succ n ih =>
    rw [run_succ_of_step n _ _ hstep]
    exact ih

end Sys2Proof.Proofs

/-! Input and output (spec/42_io_regular.md, 43_io_cpu.md): the transfers and skips of device codes 00 to 76, and the
transfers of the processor as device 77 with their control part (R211). -/

namespace Sys2Proof.Proofs

open Sys2Proof Sys2Proof.Machine Sys2Proof.Claims Sys2Proof.Laws

/-! ### Device codes 00 to 76 -/

theorem ioFrame_advance_io (s : State) (ds : List Device) (es : List IoEvent) (skips : Bool) :
    IoFrame s (({ s with devices := ds, ioTrace := es } : State).advance 1 skips) :=
  ⟨sameFlags_refl s, sameSetting_refl s, rfl, rfl, rfl, rfl, rfl, sameMemory_refl s⟩

theorem ioFrame_advance_setAc_io (s : State) (n : Ac) (v : Word) (ds : List Device) (es : List IoEvent) (skips : Bool) :
    IoFrame s (({ s.setAc n v with devices := ds, ioTrace := es } : State).advance 1 skips) := by
  cases n <;> exact ⟨sameFlags_refl s, sameSetting_refl s, rfl, rfl, rfl, rfl, rfl, sameMemory_refl s⟩

theorem ac_with_io (s : State) (ds : List Device) (es : List IoEvent) (k : Ac) :
    ({ s with devices := ds, ioTrace := es } : State).ac k = s.ac k := by cases k <;> rfl

/-- A byte-wide device has the low byte on its lines (R187, R188). -/
theorem toNat_and_low_byte (v : Word) : (v &&& 0o377#16).toNat = v.toNat % 256 := by
  rw [BitVec.toNat_and]
  exact Nat.and_two_pow_sub_one_eq_mod v.toNat 8

theorem toNat_input (x : Device) (b : Buf) : (x.input b).toNat = givenWord x b := by
  unfold Device.input givenWord
  dsimp only
  split
  · exact toNat_and_low_byte _
  · rfl

theorem output_eq_tookWord (x : Device) (b : Buf) (v : Word) : x.output b v = tookWord x b v := by
  have hlow : v &&& 0o377#16 = BitVec.ofNat 16 (v.toNat % 256) := by
    refine BitVec.eq_of_toNat_eq ?_
    rw [toNat_and_low_byte, BitVec.toNat_ofNat]
    omega
  have htaken : (if x.byteWide then v &&& 0o377#16 else v) =
      if x.byteWide then BitVec.ofNat 16 (v.toNat % 256) else v := by rw [hlow]
  cases b with
  | bufA => exact congrArg (fun w => { x with outA := w }) htaken
  | bufB => exact congrArg (fun w => { x with outB := w }) htaken
  | bufC => exact congrArg (fun w => { x with outC := w }) htaken

theorem devIn_installed (s : State) (d : DevCode) (b : Buf) (x : Device) (h : s.device? d = some x) :
    s.devIn d b = x.input b := by simp only [State.devIn, h]

theorem devIn_absent (s : State) (d : DevCode) (b : Buf) (h : s.device? d = none) : s.devIn d b = 0 := by
  simp only [State.devIn, h]

/-- The model's test of a device code as a proposition. -/
theorem ite_code (x : Device) (d : DevCode) (y : Device) :
    (if x.code == d then y else x) = if x.code = d then y else x := if_congr beq_iff_eq rfl rfl

theorem inputDoes (i : Instr) (ac : Ac) (f : Ctrl) (d : DevCode) (b : Buf) (s : State)
    (hexec : exec i s = .next ((s.devTransferIn ac f d b).advance 1 false)) : InputDoes i ac f d b s := by
  rw [devTransferIn_eq] at hexec
  have hac : ((({ s.setAc ac (s.devIn d b) with
        devices := s.devices.map fun x => if x.code == d then x.control f else x
        ioTrace := .instr d (.input b (s.devIn d b)) f :: s.ioTrace } : State).advance 1 false).ac ac) = s.devIn d b := by
    rw [ac_advance, ac_with_io, ac_setAc_same]
  refine ⟨_, hexec, fun x hx => ?_, fun hx => ?_, fun k hk => ?_, ?_, ?_, ?_, ioFrame_advance_setAc_io s ac _ _ _ _⟩
  · rw [hac, devIn_installed s d b x hx, toNat_input]
  · rw [hac, devIn_absent s d b hx]
  · rw [ac_advance, ac_with_io, ac_setAc_other s ac k _ hk]
  · rw [pc_advance, if_neg Bool.false_ne_true, pc_setAc]
  · exact List.map_congr_left fun x _ => ite_code x d _
  · rw [hac]; rfl

/-- Settles O15: each is an input transfer. -/
theorem regularInput : Obligations.RegularInput := by
  intro ac f d s
  exact ⟨inputDoes _ ac f d .bufA s rfl, inputDoes _ ac f d .bufB s rfl, inputDoes _ ac f d .bufC s rfl⟩

/-- First the word, then the pulse, on the same device (R170). -/
theorem output_then_control (x : Device) (d : DevCode) (b : Buf) (v : Word) (f : Ctrl) :
    (if (if x.code == d then x.output b v else x).code == d then (if x.code == d then x.output b v else x).control f
      else (if x.code == d then x.output b v else x)) = if x.code = d then (tookWord x b v).control f else x := by
  by_cases h : x.code = d
  · have hbeq : (x.code == d) = true := beq_iff_eq.2 h
    simp only [hbeq, if_true, output_code, if_pos h]
    rw [output_eq_tookWord]
  · have hbeq : (x.code == d) = false := beq_eq_false_iff_ne.2 h
    simp only [hbeq, Bool.false_eq_true, if_false, if_neg h]

theorem outputDoes (i : Instr) (ac : Ac) (f : Ctrl) (d : DevCode) (b : Buf) (s : State)
    (hexec : exec i s = .next ((s.devTransferOut ac f d b).advance 1 false)) : OutputDoes i ac f d b s := by
  rw [devTransferOut_eq] at hexec
  refine ⟨_, hexec, ?_, fun k => ?_, rfl, rfl, ioFrame_advance_io s _ _ _⟩
  · rw [devices_advance, List.map_map]
    exact List.map_congr_left fun x _ => output_then_control x d b _ f
  · rw [ac_advance, ac_with_io]

/-- Settles O16: each is an output transfer. -/
theorem regularOutput : Obligations.RegularOutput := by
  intro ac f d s
  exact ⟨outputDoes _ ac f d .bufA s rfl, outputDoes _ ac f d .bufB s rfl, outputDoes _ ac f d .bufC s rfl⟩

/-- The pulses of the default device model (R179 to R181). -/
theorem control_default (x : Device) (f : Ctrl) (hs : x.onStart = .start) (hc : x.onClear = .clear)
    (hp : x.onPulse = .nothing) :
    x.control f = match f with
      | .s => { x with busy := true, done := false, intReq := false }
      | .c => { x with busy := false, done := false, intReq := false }
      | _ => x := by
  cases f with
  | none => rfl
  | s => exact congrArg x.pulsed hs
  | c => exact congrArg x.pulsed hc
  | p => exact congrArg x.pulsed hp

/-- Settles O17: NIO is the record and the pulse. -/
theorem nioPulses : Obligations.NioPulses := by
  intro ac f d s
  refine ⟨_, rfl, fun k => ?_, rfl, ioFrame_advance_io s _ _ _, rfl, fun k hk => ?_, fun x hx hs hc hp => ?_⟩
  · rw [ac_advance, ac_devNio]
  · exact device_onDevice_other s d k (fun x => x.control f) (fun x => control_code x f) hk
  · refine (device_onDevice_same s d (fun x => x.control f) (fun x => control_code x f)).trans ?_
    rw [hx]
    exact congrArg some (control_default x f hs hc hp)

theorem devBusy_iff (s : State) (d : DevCode) : s.devBusy d = true ↔ ∃ x, s.device? d = some x ∧ x.busy = true := by
  unfold State.devBusy
  cases h : s.device? d <;> simp

theorem devDone_iff (s : State) (d : DevCode) : s.devDone d = true ↔ ∃ x, s.device? d = some x ∧ x.done = true := by
  unfold State.devDone
  cases h : s.device? d <;> simp

theorem ioSkips_of_exec (i : Instr) (d : DevCode) (f : Ctrl) (test : Prop) (s : State) (skips : Bool)
    (hexec : exec i s = .next ((s.devTested d f).advance 1 skips)) (htest : skips = true ↔ test) :
    IoSkips i d f test s := by
  refine ⟨_, hexec, fun h => ?_, fun h => ?_, fun k => ?_, rfl, rfl, ioFrame_advance_io s _ _ _⟩
  · rw [pc_advance, if_pos (htest.2 h), BitVec.add_assoc]; rfl
  · rw [pc_advance, if_neg (mt htest.1 h)]; rfl
  · rw [ac_advance, ac_devTested]

/-- Settles O18: the four tests are Busy and Done of the installed device, and their negations. -/
theorem deviceSkips : Obligations.DeviceSkips := by
  intro ac d s
  have hnot (b : Bool) (p : Prop) (h : b = true ↔ p) : (!b) = true ↔ ¬ p := by
    rw [Bool.not_eq_true', ← Bool.not_eq_true, h]
  exact ⟨ioSkips_of_exec _ d .none _ s _ rfl (devBusy_iff s d), ioSkips_of_exec _ d .s _ s _ rfl (hnot _ _ (devBusy_iff s d)),
    ioSkips_of_exec _ d .c _ s _ rfl (devDone_iff s d), ioSkips_of_exec _ d .p _ s _ rfl (hnot _ _ (devDone_iff s d))⟩

/-! ### The processor as device 77 -/

theorem getLsbD_0_eq (v : Word) : v.getLsbD 0 = decide (v.toNat % 2 = 1) := by
  have hbit := toNat_getLsbD v 0
  cases h : v.getLsbD 0 <;> rw [h] at hbit
  · exact (decide_eq_false (by rw [Bool.toNat_false] at hbit; omega)).symm
  · exact (decide_eq_true (by rw [Bool.toNat_true] at hbit; omega)).symm

/-- What the OPCODE part of a code-77 transfer leaves alone (R200). -/
structure CpuKeeps (s u : State) : Prop where
  pwrFail : u.pwrFail = s.pwrFail
  parErr : u.parErr = s.parErr
  setting : SameSetting s u
  sp : u.sp = s.sp
  xpc : u.xpc = s.xpc
  c : u.c = s.c
  ioTrace : u.ioTrace = s.ioTrace
  mem : u.mem = s.mem
  pc : u.pc = s.pc
  ion : u.ion = s.ion

theorem cpuKeeps_refl (s : State) : CpuKeeps s s :=
  ⟨rfl, rfl, sameSetting_refl s, rfl, rfl, rfl, rfl, rfl, rfl, rfl⟩

theorem cpuKeeps_setAc (s : State) (n : Ac) (v : Word) : CpuKeeps s (s.setAc n v) := by
  cases n <;> exact ⟨rfl, rfl, sameSetting_refl s, rfl, rfl, rfl, rfl, rfl, rfl, rfl⟩

/-- Devices, both modes, RUN and the count of free values may change. -/
theorem cpuKeeps_devices (s : State) (ds : List Device) (m e r : Bool) (n : Nat) :
    CpuKeeps s { s with devices := ds, mode64k := m, eis := e, run := r, draws := n } :=
  ⟨rfl, rfl, sameSetting_refl s, rfl, rfl, rfl, rfl, rfl, rfl, rfl⟩

theorem CpuKeeps.cpuFrame {s u : State} (h : CpuKeeps s u) (act : IoAction) (f : Ctrl) :
    CpuFrame act f s (u.cpuDone act f) := by
  have hctrl : CpuFrame act f u (u.cpuDone act f) := by
    cases f <;> exact ⟨rfl, rfl, sameSetting_refl u, rfl, rfl, rfl, rfl, sameMemory_refl u, rfl⟩
  obtain ⟨h1, h2, h3, h4, h5, h6, h7, h8, h9⟩ := hctrl
  refine ⟨h1.trans h.pwrFail, h2.trans h.parErr, sameSetting_trans h.setting h3, h4.trans h.sp, h5.trans h.xpc, h6.trans h.c,
    ?_, fun b => ?_, ?_⟩
  · rw [h7, h.ioTrace]
  · rw [h8 b, h.mem]
  · rw [h9, h.pc]

/-- The control part acts on the flags as the OPCODE part has left them, P taking A0 as it then stands (R202 to R204,
R211, D26). -/
theorem CpuKeeps.controlPart {s u : State} (h : CpuKeeps s u) (act : IoAction) (f : Ctrl) :
    ControlPart f u.mode64k u.eis u.a0 s (u.cpuDone act f) := by
  cases f with
  | none => exact ⟨h.ion, rfl, rfl, rfl⟩
  | s => exact ⟨rfl, rfl, rfl, rfl⟩
  | c => exact ⟨rfl, rfl, rfl, rfl⟩
  | p =>
    obtain ⟨-, -, -, hcfg, -⟩ := h.setting
    refine ⟨h.ion, rfl, getLsbD_0_eq u.a0, ?_⟩
    rw [← hcfg, ← getLsbD_15_eq]
    rfl

theorem ac_cpuDone (u : State) (act : IoAction) (f : Ctrl) (k : Ac) : (u.cpuDone act f).ac k = u.ac k := by
  unfold State.cpuDone
  rw [ac_cpuControl, ac_advance, ac_record]

theorem a0_cpuDone (u : State) (act : IoAction) (f : Ctrl) : (u.cpuDone act f).a0 = u.a0 := ac_cpuDone u act f .a0

theorem kept_cpuDone (u : State) (act : IoAction) (f : Ctrl) :
    (u.cpuDone act f).run = u.run ∧ (u.cpuDone act f).devices = u.devices ∧ (u.cpuDone act f).draws = u.draws := by
  cases f <;> exact ⟨rfl, rfl, rfl⟩

/-- Settles O19: no OPCODE part, so that only the control part acts. -/
theorem processorControl : Obligations.ProcessorControl := by
  intro ac s p hp
  have hdone (f : Ctrl) : ControlPart f s.mode64k s.eis s.a0 s (s.cpuDone .nio f) ∧ SameAcs s (s.cpuDone .nio f) ∧
      (s.cpuDone .nio f).run = s.run ∧ (s.cpuDone .nio f).devices = s.devices ∧ (s.cpuDone .nio f).draws = s.draws ∧
      CpuFrame .nio f s (s.cpuDone .nio f) := by
    obtain ⟨hrun, hdev, hdraws⟩ := kept_cpuDone s .nio f
    exact ⟨(cpuKeeps_refl s).controlPart .nio f, ac_cpuDone s .nio f, hrun, hdev, hdraws, (cpuKeeps_refl s).cpuFrame .nio f⟩
  simp only [List.mem_cons, List.not_mem_nil, or_false] at hp
  rcases hp with rfl | rfl | rfl | rfl
  exacts [⟨_, rfl, hdone .none⟩, ⟨_, rfl, hdone .s⟩, ⟨_, rfl, hdone .c⟩, ⟨_, rfl, hdone .p⟩]

/-- A word `v` is read into an accumulator from device 77, then the control part follows (READS, INTA). -/
theorem cpuInput (s : State) (ac : Ac) (v : Word) (b : Buf) (f : Ctrl) (t : State)
    (ht : t = (s.setAc ac v).cpuDone (.input b v) f) :
    t.ac ac = v ∧ AcsBut ac s t ∧ ControlPart f s.mode64k s.eis t.a0 s t ∧ t.run = s.run ∧ t.devices = s.devices ∧
      t.draws = s.draws ∧ CpuFrame (.input b (t.ac ac)) f s t := by
  subst ht
  have hkeeps := cpuKeeps_setAc s ac v
  obtain ⟨hrun, hdev, hdraws⟩ := kept_cpuDone (s.setAc ac v) (.input b v) f
  have hac : ((s.setAc ac v).cpuDone (.input b v) f).ac ac = v := by rw [ac_cpuDone, ac_setAc_same]
  have hctrl := hkeeps.controlPart (.input b v) f
  rw [mode64k_setAc, eis_setAc] at hctrl
  refine ⟨hac, fun k hk => ?_, ?_, ?_, ?_, ?_, ?_⟩
  · rw [ac_cpuDone, ac_setAc_other s ac k v hk]
  · rw [a0_cpuDone]; exact hctrl
  · rw [hrun, run_setAc]
  · rw [hdev, devices_setAc]
  · rw [hdraws, draws_setAc]
  · rw [hac]; exact hkeeps.cpuFrame _ f

/-- Settles O20: the word read is the display's, or the switches' as the low byte. -/
theorem readSwitches : Obligations.ReadSwitches := by
  intro ac f s
  obtain ⟨hac, hrest⟩ := cpuInput s ac s.switchWord .bufA f _ rfl
  refine ⟨_, rfl, fun h => ?_, fun h => ?_, hrest⟩
  · rw [hac]; simp only [State.switchWord, h, if_true]
  · rw [hac]; simp only [State.switchWord, h, Bool.false_eq_true, if_false, toNat_zext16]

theorem requesting_iff (d : Device) : d.requesting = true ↔ d.intReq = true ∧ d.intDisable = false := by
  simp [Device.requesting]

/-- No request of an enabled device (R343). -/
theorem requesting_eq_false (d : Device) (h : d.intReq = true → d.intDisable = true) : d.requesting = false := by
  rw [← Bool.not_eq_true, requesting_iff]
  rintro ⟨hreq, hdis⟩
  rw [h hreq] at hdis
  exact absurd hdis.symm Bool.false_ne_true

/-- The first requesting device in the list is the closest (R207). -/
theorem interruptAcknowledge_closest (s : State) (closer farther : List Device) (d : Device)
    (hlist : s.devices = closer ++ d :: farther) (hreq : d.intReq = true) (hdis : d.intDisable = false)
    (hcloser : ∀ x ∈ closer, x.intReq = true → x.intDisable = true) :
    s.interruptAcknowledge.toNat = d.code.toNat := by
  have hnone : closer.find? Device.requesting = none := by
    rw [List.find?_eq_none]
    exact fun x hx => Bool.eq_false_iff.1 (requesting_eq_false x (hcloser x hx))
  have hfind : s.devices.find? Device.requesting = some d := by
    rw [hlist, List.find?_append, hnone, Option.none_or, List.find?_cons, (requesting_iff d).2 ⟨hreq, hdis⟩]
  simp only [State.interruptAcknowledge, hfind]
  exact BitVec.toNat_setWidth_of_le (by decide)

theorem interruptAcknowledge_none (s : State) (h : ∀ x ∈ s.devices, x.intReq = true → x.intDisable = true) :
    s.interruptAcknowledge = 0 := by
  have hfind : s.devices.find? Device.requesting = none := by
    rw [List.find?_eq_none]
    exact fun x hx => Bool.eq_false_iff.1 (requesting_eq_false x (h x hx))
  simp only [State.interruptAcknowledge, hfind]

/-- Settles O21: the word read is the code of the closest requester. -/
theorem interruptAcknowledge : Obligations.InterruptAcknowledge := by
  intro ac f s
  obtain ⟨hac, hrest⟩ := cpuInput s ac s.interruptAcknowledge .bufB f _ rfl
  refine ⟨_, rfl, fun closer d farther hlist hreq hdis hcloser => ?_, fun h => ?_, hrest⟩
  · rw [hac]; exact interruptAcknowledge_closest s closer farther d hlist hreq hdis hcloser
  · rw [hac]; exact interruptAcknowledge_none s h

/-- The mask bit of weight `2^(15-m)` as a number (R7, R208). -/
theorem masked_eq (x : Device) (w : Word) :
    x.masked w = { x with intDisable :=
      match x.maskBit with
      | some m => decide (w.toNat / 2 ^ (15 - m.val) % 2 = 1)
      | none => x.intDisable } := by
  have hbit (m : Fin 16) : w.getLsbD (15 - m.val) = decide (w.toNat / 2 ^ (15 - m.val) % 2 = 1) := by
    rw [← toNat_getLsbD]
    cases w.getLsbD (15 - m.val) <;> rfl
  obtain ⟨_, maskBit, _⟩ := x
  cases maskBit with
  | none => rfl
  | some m => simp only [Device.masked, hbit]

/-- Settles O22: the OPCODE part is one change of the devices. -/
theorem maskOut : Obligations.MaskOut := by
  intro ac f s
  have hkeeps := cpuKeeps_devices s (s.devices.map fun d => d.masked (s.ac ac)) s.mode64k s.eis s.run s.draws
  obtain ⟨hrun, hdev, hdraws⟩ := kept_cpuDone (s.maskOut (s.ac ac)) (.output .bufB (s.ac ac)) f
  refine ⟨_, rfl, hdev.trans ?_, fun k => ?_, hkeeps.controlPart _ f, hrun, hdraws, hkeeps.cpuFrame _ f⟩
  · exact List.map_congr_left fun x _ => masked_eq x (s.ac ac)
  · rw [ac_cpuDone, ac_maskOut]

/-- Every device is where it was and what it was, and idle (R392). -/
theorem allIdle_resetDevices (n : Nat) (l : List Device) :
    (resetDevices n l).map (fun x => (x.code, x.maskBit, x.byteWide, x.dch, x.unsolicited, x.onStart, x.onClear, x.onPulse)) =
        l.map (fun x => (x.code, x.maskBit, x.byteWide, x.dch, x.unsolicited, x.onStart, x.onClear, x.onPulse)) ∧
      ∀ x ∈ resetDevices n l, Idle x := by
  induction l generalizing n with
  | nil => exact ⟨rfl, fun x hx => absurd hx List.not_mem_nil⟩
  | cons d t ih =>
    obtain ⟨hmap, hidle⟩ := ih (n + 6)
    refine ⟨congrArg (List.cons _) hmap, fun x hx => ?_⟩
    rcases List.mem_cons.1 hx with rfl | hx
    · exact ⟨rfl, rfl, rfl, rfl⟩
    · exact hidle x hx

theorem allIdle_of_reset {s t : State} (h : t.devices = resetDevices s.draws s.devices) : AllIdle s t := by
  unfold AllIdle
  rw [h]
  exact allIdle_resetDevices s.draws s.devices

/-- I/O Reset, then a control part (R209). -/
theorem ioReset_cpuDone (s : State) (f : Ctrl) (t : State) (ht : t = s.ioReset.cpuDone .ioReset f) :
    AllIdle s t ∧ ControlPart f false false s.a0 s t ∧ SameAcs s t ∧ t.run = s.run ∧ CpuFrame .ioReset f s t := by
  subst ht
  have hkeeps := cpuKeeps_devices s (resetDevices s.draws s.devices) false false s.run (s.draws + 6 * s.devices.length)
  obtain ⟨hrun, hdev, -⟩ := kept_cpuDone s.ioReset .ioReset f
  refine ⟨allIdle_of_reset hdev, hkeeps.controlPart .ioReset f, fun k => ?_, hrun, hkeeps.cpuFrame .ioReset f⟩
  rw [ac_cpuDone, ac_ioReset]

/-- Settles O23: both are I/O Reset with a control part, IORST with C. -/
theorem ioResetInstructions : Obligations.IoResetInstructions := by
  intro ac f s
  exact ⟨⟨_, rfl, ioReset_cpuDone s f _ rfl⟩, ⟨_, rfl, ioReset_cpuDone s .c _ rfl⟩⟩

/-- Settles O24: HALT clears RUN, then completes like the other transfers. -/
theorem haltStops : Obligations.HaltStops := by
  intro ac f s
  have hkeeps := cpuKeeps_devices s s.devices s.mode64k s.eis false s.draws
  obtain ⟨hrun, hdev, hdraws⟩ := kept_cpuDone ({ s with run := false } : State) .halt f
  refine ⟨_, rfl, hrun, hkeeps.controlPart .halt f, fun k => ?_, hdev, hdraws, hkeeps.cpuFrame .halt f⟩
  rw [ac_cpuDone]
  cases k <;> rfl

end Sys2Proof.Proofs

/-! The extended bit instructions (spec/44_eis_immediate_bit.md R239 to R250) and the extended stack instructions
(spec/45_eis_stack.md R261, R264 to R270): the operand, result and test bit by bit, a push, and the stack fault. -/

namespace Sys2Proof.Proofs

open Sys2Proof Sys2Proof.Machine Sys2Proof.Claims Sys2Proof.Laws

/-! ### The bit instructions -/

theorem skips_zeros_iff (opnd mask : Word) : BitTest.zeros.skips opnd mask = true ↔ zerosTest opnd mask := by
  have hand : BitTest.zeros.skips opnd mask = true ↔ opnd &&& mask = 0 := beq_iff_eq
  rw [hand]
  constructor
  · intro h k _ hmask
    have hbit := congrArg (fun w => w.getLsbD k) h
    simpa [hmask] using hbit
  · intro h
    refine BitVec.eq_of_getLsbD_eq fun k hk => ?_
    rw [BitVec.getLsbD_and]
    cases hmask : mask.getLsbD k
    · simp
    · simp [h k hk hmask]

theorem skips_ones_iff (opnd mask : Word) : BitTest.ones.skips opnd mask = true ↔ onesTest opnd mask := by
  have hzeros : BitTest.ones.skips opnd mask = !(BitTest.zeros.skips opnd mask) := rfl
  rw [hzeros, Bool.not_eq_true', ← Bool.not_eq_true, skips_zeros_iff]
  simp only [zerosTest, onesTest, not_forall, Bool.not_eq_false, exists_prop]

theorem getLsbD_bitClear (o m : Word) (k : Nat) (hk : k < 16) :
    (bitClear o m).getLsbD k = (o.getLsbD k && !m.getLsbD k) := by
  simp [bitClear, hk]

theorem getLsbD_bitSet (o m : Word) (k : Nat) : (bitSet o m).getLsbD k = (o.getLsbD k || m.getLsbD k) :=
  BitVec.getLsbD_or

theorem getLsbD_bitToggle (o m : Word) (k : Nat) : (bitToggle o m).getLsbD k = (o.getLsbD k ^^ m.getLsbD k) :=
  BitVec.getLsbD_xor

/-- What every bit instruction changes besides A0 and the pc: with `@` the addressed word, which takes the result too
(R239). -/
theorem bitRun_changes (t : BitTest) (act : Word → Word → Word) (ind : Bool) (mask : Word) (s : State) :
    (bitRun t act ind mask s).a0 = act (s.bitOperand ind) mask ∧
      (ind = true → (bitRun t act ind mask s).read (s.a1 + s.a2) = (bitRun t act ind mask s).a0 ∧
        MemoryBut (s.a1 + s.a2) s (bitRun t act ind mask s)) ∧
      (ind = false → SameMemory s (bitRun t act ind mask s)) ∧
      AcsBut .a0 s (bitRun t act ind mask s) ∧ (bitRun t act ind mask s).c = s.c ∧ Plain s (bitRun t act ind mask s) := by
  have hregs := frame_registers s (act (s.bitOperand ind) mask) s.a1 s.a2 s.a3 s.c
  cases ind with
  | false =>
    exact ⟨rfl, fun h => absurd h Bool.false_ne_true, fun _ => sameMemory_refl s, acsBut_a0 rfl rfl rfl, rfl,
      hregs.plain_advance _ _⟩
  | true =>
    exact ⟨rfl, fun _ => ⟨read_write_same _ _ _, memoryBut_write { s with a0 := _ } _ _⟩,
      fun h => absurd h.symm Bool.false_ne_true, acsBut_a0 rfl rfl rfl, rfl, (hregs.trans (frame_write _ _ _)).plain_advance _ _⟩

theorem pc_bitRun (t : BitTest) (act : Word → Word → Word) (ind : Bool) (mask : Word) (s : State) :
    (bitRun t act ind mask s).pc = if t.skips (s.bitOperand ind) mask then s.pc + 3 else s.pc + 2 := by
  have hthree : s.pc + 2 + 1 = s.pc + 3 := BitVec.add_assoc s.pc 2 1
  rw [← hthree]
  cases ind <;> rfl

theorem bitDoes (i : Instr) (t : BitTest) (act : Word → Word → Word) (ind : Bool) (mask : Word)
    (bit : Bool → Bool → Bool) (skip : Word → Word → Prop) (s : State)
    (hexec : exec i s = .next (bitRun t act ind mask s))
    (hbit : ∀ o k, k < 16 → (act o mask).getLsbD k = bit (o.getLsbD k) (mask.getLsbD k))
    (hskip : ∀ o, t.skips o mask = true ↔ skip o mask) : BitDoes i ind mask bit skip s := by
  obtain ⟨ha0, hind, hdirect, hacs, hc, hplain⟩ := bitRun_changes t act ind mask s
  refine ⟨s.bitOperand ind, rfl, _, hexec, fun k hk => ?_, hind, hdirect, hacs, hc, fun h => ?_, fun h => ?_, hplain⟩
  · rw [ha0]; exact hbit _ k hk
  · rw [pc_bitRun, if_pos ((hskip _).2 h)]
  · rw [pc_bitRun, if_neg (mt (hskip _).1 h)]

/-- Settles O29: the instructions are the combinations of four actions on a bit and three tests. -/
theorem bitInstructions : Obligations.BitInstructions := by
  intro ind mask s
  have hnever (o : Word) : BitTest.none.skips o mask = true ↔ neverSkips o mask :=
    ⟨fun h => absurd h Bool.false_ne_true, False.elim⟩
  have hzeros (o : Word) := skips_zeros_iff o mask
  have hones (o : Word) := skips_ones_iff o mask
  have hkeep (o : Word) (k : Nat) (_ : k < 16) : (bitKeep o mask).getLsbD k = o.getLsbD k := rfl
  have hclear (o : Word) (k : Nat) (hk : k < 16) := getLsbD_bitClear o mask k hk
  have hset (o : Word) (k : Nat) (_ : k < 16) := getLsbD_bitSet o mask k
  have htoggle (o : Word) (k : Nat) (_ : k < 16) := getLsbD_bitToggle o mask k
  exact ⟨bitDoes _ .none bitClear ind mask _ _ s rfl hclear hnever, bitDoes _ .none bitSet ind mask _ _ s rfl hset hnever,
    bitDoes _ .none bitToggle ind mask _ _ s rfl htoggle hnever, bitDoes _ .zeros bitKeep ind mask _ _ s rfl hkeep hzeros,
    bitDoes _ .ones bitKeep ind mask _ _ s rfl hkeep hones, bitDoes _ .zeros bitClear ind mask _ _ s rfl hclear hzeros,
    bitDoes _ .ones bitClear ind mask _ _ s rfl hclear hones, bitDoes _ .zeros bitSet ind mask _ _ s rfl hset hzeros,
    bitDoes _ .ones bitSet ind mask _ _ s rfl hset hones, bitDoes _ .zeros bitToggle ind mask _ _ s rfl htoggle hzeros,
    bitDoes _ .ones bitToggle ind mask _ _ s rfl htoggle hones⟩

/-! ### A push and a pop -/

theorem overflows_pushed (s : State) (v : Word) :
    (s.pushed v).overflows = decide ((s.sp - 1).toNat < ((afterPush s v).read 0o47#16).toNat) := rfl

theorem memoryBut_pushed (s : State) (v : Word) : MemoryBut (s.sp - 1) s (s.pushed v) :=
  memoryBut_write { s with sp := s.sp - 1 } _ v

theorem plainStack_pushed_complete (s : State) (v next : Word) : PlainStack s ((s.pushed v).complete next) :=
  ⟨sameFlags_refl s, ⟨rfl, rfl, rfl, rfl, rfl, rfl, misread_write_or { s with sp := s.sp - 1 } _ v⟩, ⟨rfl, rfl⟩, rfl, rfl,
    rfl⟩

/-- The state after a pop, before the limit test (R265, R270). -/
def popped (s : State) : State := { s with sp := s.sp + 1 }

theorem underflows_popped (s : State) : (popped s).underflows = decide ((s.read 0o46#16).toNat < (s.sp + 1).toNat) := rfl

theorem underflows_popped_setAc (s : State) (n : Ac) (v : Word) :
    ({ s.setAc n v with sp := s.sp + 1 } : State).underflows = decide ((s.read 0o46#16).toNat < (s.sp + 1).toNat) := by
  cases n <;> rfl

theorem ac_popped_setAc (s : State) (n : Ac) (v : Word) : ({ s.setAc n v with sp := s.sp + 1 } : State).ac n = v := by
  cases n <;> rfl

theorem acsBut_popped_setAc_advance (s : State) (n : Ac) (v : Word) :
    AcsBut n s (({ s.setAc n v with sp := s.sp + 1 } : State).advance 1 false) := by
  intro k hk
  rw [ac_advance, ac_with_sp, ac_setAc_other s n k v hk]

theorem plainStack_popped_setAc_advance (s : State) (n : Ac) (v : Word) :
    PlainStack s (({ s.setAc n v with sp := s.sp + 1 } : State).advance 1 false) := by
  simp [PlainStack, SameFlags, SameSetting, SameDevices]

theorem read_popped_setAc (s : State) (n : Ac) (v a : Word) :
    ({ s.setAc n v with sp := s.sp + 1 } : State).read a = s.read a := by cases n <;> rfl

/-- PUSH in its two cases (R264). -/
theorem exec_push (ac : Ac) (s : State) :
    exec (.push ac) s = .next (if (s.pushed (s.ac ac)).overflows then (s.pushed (s.ac ac)).stackFault (s.pc + 1)
      else (s.pushed (s.ac ac)).advance 1 false) := rfl

/-- POP in its two cases (R265). -/
theorem exec_pop (ac : Ac) (s : State) :
    exec (.pop ac) s =
      .next (if ({ s.setAc ac (s.read s.sp) with sp := s.sp + 1 } : State).underflows then
          ({ s.setAc ac (s.read s.sp) with sp := s.sp + 1 } : State).stackFault (s.pc + 1)
        else ({ s.setAc ac (s.read s.sp) with sp := s.sp + 1 } : State).advance 1 false) := rfl

/-- POPJUMP in its two cases (R270). -/
theorem exec_popjump (s : State) :
    exec .popjump s = .next (if (popped s).underflows then (popped s).stackFault (s.pc + 1)
      else (popped s).complete (s.read (s.sp + 1 - 1))) := rfl

theorem add_sub_one (x : Word) : x + 1 - 1 = x := BitVec.add_sub_cancel x 1

/-- Settles O31: the limit test fails, and the instruction completes. -/
theorem stackWithinLimits : Obligations.StackWithinLimits := by
  refine ⟨fun ac s h => ?_, fun ac s h => ?_, fun s h => ?_⟩
  · have hlimit : (s.pushed (s.ac ac)).overflows = false := by
      rw [overflows_pushed]; exact decide_eq_false (by omega)
    rw [exec_push, hlimit, if_neg Bool.false_ne_true]
    exact ⟨_, rfl, rfl, pushed_read_same s _, memoryBut_pushed s _, fun k => (ac_advance _ _ _ k).trans (ac_pushed s _ k), rfl,
      rfl, plainStack_pushed_complete s _ _⟩
  · have hlimit : ({ s.setAc ac (s.read s.sp) with sp := s.sp + 1 } : State).underflows = false := by
      rw [underflows_popped_setAc]; exact decide_eq_false (by omega)
    rw [exec_pop, hlimit, if_neg Bool.false_ne_true]
    refine ⟨_, rfl, (ac_advance _ _ _ ac).trans (ac_popped_setAc s ac _), rfl, acsBut_popped_setAc_advance s ac _, ?_, ?_,
      fun b => ?_, plainStack_popped_setAc_advance s ac _⟩
    · exact c_setAc s ac _
    · exact congrArg (· + 1) (pc_setAc s ac _)
    · exact congrArg (memByte · b) (mem_setAc s ac _)
  · have hlimit : (popped s).underflows = false := by
      rw [underflows_popped]; exact decide_eq_false (by omega)
    rw [exec_popjump, hlimit, if_neg Bool.false_ne_true, add_sub_one]
    exact ⟨_, rfl, rfl, rfl, fun k => ac_with_sp s (s.sp + 1) k, rfl, sameMemory_refl s,
      ⟨sameFlags_refl s, sameSetting_refl s, ⟨rfl, rfl⟩, rfl, rfl, rfl⟩⟩

/-! ### The stack fault -/

/-- The fault stores the saved pc at the cell that cell 45 names and jumps through the cell after it (R261). -/
theorem faultTaken_stackFault (u : State) (saved : Word) :
    FaultTaken u (u.stackFault saved) ∧ (u.stackFault saved).read (u.read 0o45#16) = saved ∧
      (u.stackFault saved).draws = u.draws :=
  ⟨⟨rfl, memoryBut_write u _ saved, fun k => by cases k <;> rfl, rfl, rfl, sameFlags_refl u,
    ⟨rfl, rfl, rfl, rfl, rfl, rfl, misread_write_or u _ saved⟩, ⟨rfl, rfl⟩, rfl, rfl⟩, read_write_same u _ saved, rfl⟩

/-- Settles O32: the limit test holds, and the fault is the last act of the instruction. -/
theorem stackFaults : Obligations.StackFaults := by
  refine ⟨fun ac s h => ?_, fun ac s h => ?_, fun s h => ?_⟩
  · have hlimit : (s.pushed (s.ac ac)).overflows = true := by
      rw [overflows_pushed]; exact decide_eq_true h
    obtain ⟨hfault, hread, hdraws⟩ := faultTaken_stackFault (s.pushed (s.ac ac)) (s.pc + 1)
    rw [exec_push, hlimit, if_pos rfl]
    exact ⟨_, rfl, rfl, hread, hfault, hdraws⟩
  · have hlimit : ({ s.setAc ac (s.read s.sp) with sp := s.sp + 1 } : State).underflows = true := by
      rw [underflows_popped_setAc]; exact decide_eq_true h
    obtain ⟨hfault, hread, hdraws⟩ :=
      faultTaken_stackFault ({ s.setAc ac (s.read s.sp) with sp := s.sp + 1 } : State) (s.pc + 1)
    have hacs := hfault.2.2.1
    rw [read_popped_setAc] at hread
    rw [exec_pop, hlimit, if_pos rfl]
    exact ⟨_, rfl, (hacs ac).trans (ac_popped_setAc s ac _), rfl, hread, hfault, hdraws.trans (draws_setAc s ac _)⟩
  · have hlimit : (popped s).underflows = true := by
      rw [underflows_popped]; exact decide_eq_true h
    obtain ⟨hfault, hread, hdraws⟩ := faultTaken_stackFault (popped s) (s.pc + 1)
    rw [exec_popjump, hlimit, if_pos rfl]
    exact ⟨_, rfl, rfl, hread, hfault, hdraws⟩

/-- The PUSHJUMP family within and beyond the limit (R266). -/
theorem pushJumpTo_cases (i : Instr) (target : Word) (s : State) (hexec : exec i s = .next (pushJumpTo target s)) :
    (((afterPush s (s.pc + 2)).read 0o47#16).toNat ≤ (s.sp - 1).toNat →
        ∃ t, exec i s = .next t ∧ t.pc = target ∧ t.sp = s.sp - 1 ∧ t.read (s.sp - 1) = s.pc + 2 ∧
          MemoryBut (s.sp - 1) s t ∧ SameAcs s t ∧ t.c = s.c ∧ PlainStack s t) ∧
      ((s.sp - 1).toNat < ((afterPush s (s.pc + 2)).read 0o47#16).toNat →
        ∃ t, exec i s = .next t ∧ t.sp = s.sp - 1 ∧ FaultTaken (afterPush s (s.pc + 2)) t) := by
  rw [hexec, pushJumpTo_eq]
  refine ⟨fun h => ?_, fun h => ?_⟩
  · have hlimit : (s.pushed (s.pc + 2)).overflows = false := by
      rw [overflows_pushed]; exact decide_eq_false (by omega)
    rw [hlimit, if_neg Bool.false_ne_true]
    exact ⟨_, rfl, rfl, rfl, pushed_read_same s _, memoryBut_pushed s _, fun k => (ac_complete _ _ k).trans (ac_pushed s _ k),
      rfl, plainStack_pushed_complete s _ _⟩
  · have hlimit : (s.pushed (s.pc + 2)).overflows = true := by
      rw [overflows_pushed]; exact decide_eq_true h
    obtain ⟨hfault, -⟩ := faultTaken_stackFault ((s.pushed (s.pc + 2)).drawn 1) (Config.freeWord s.draws)
    rw [hlimit, if_pos rfl]
    exact ⟨_, rfl, rfl, hfault⟩

/-- Settles O33: the four differ in their target only. -/
theorem pushJumps : Obligations.PushJumps := by
  intro a s p hp
  simp only [List.mem_cons, List.not_mem_nil, or_false] at hp
  rcases hp with rfl | rfl | rfl | rfl
  all_goals exact pushJumpTo_cases _ _ s rfl

end Sys2Proof.Proofs

/-! The stopped processor, the data channel, the operator and the power (spec/20_memory.md sections 5 to 7,
spec/60_exceptions.md sections 4, 6 and 7, spec/70_reset_and_hazards.md sections 1 and 2). -/

namespace Sys2Proof.Proofs

open Sys2Proof Sys2Proof.Machine Sys2Proof.Claims Sys2Proof.Laws

/-! ### A stopped processor (R354) -/

/-- What an act of a device or of the power monitor can change, the rest being as it was. -/
theorem applyEnv_changes (s : State) (e : EnvEvent) :
    ∃ m events ahead served ds failing, s.applyEnv e =
      { s with mem := m, ioTrace := events, ahead := ahead, dchServed := served, devices := ds, pwrFail := failing } :=
  ⟨_, _, _, _, _, _, applyEnv_eq s e⟩

theorem ac_with_env (s : State) (m : Memory) (events : List IoEvent) (ahead : Option Word) (served : Bool)
    (ds : List Device) (failing : Bool) (k : Ac) :
    ({ s with mem := m, ioTrace := events, ahead := ahead, dchServed := served, devices := ds, pwrFail := failing } :
      State).ac k = s.ac k := by cases k <;> rfl

theorem ac_with_inputs (s : State) (rest : List Input) (k : Ac) : ({ s with inputs := rest } : State).ac k = s.ac k := by
  cases k <;> rfl

/-- Settles O52: the processor's turn does nothing, and an act of a device changes no register. -/
theorem stoppedProcessor : Obligations.StoppedProcessor := by
  intro s hrun
  refine ⟨fun hin => ?_, fun e rest hin => ?_⟩
  · rw [step_no_input s hin, turnTaken_stopped s.proceeds hrun]
    rfl
  · rw [step_input s _ rest hin, State.take]
    split
    next hpower =>
      obtain ⟨m, events, ahead, served, ds, failing, heq⟩ := applyEnv_changes { s with inputs := rest } e
      rw [heq]
      exact ⟨_, rfl, hrun, fun k => (ac_with_env _ _ _ _ _ _ _ k).trans (ac_with_inputs s rest k), rfl, rfl, rfl, rfl,
        rfl, rfl, rfl, rfl, rfl, rfl, rfl, rfl, rfl⟩
    next hpower =>
      exact ⟨_, rfl, hrun, ac_with_inputs s rest, rfl, rfl, rfl, rfl, rfl, rfl, rfl, rfl, rfl, rfl, rfl, rfl, rfl⟩

/-! ### The data channel (R61 to R64, R68) -/

/-- An act of the data channel while power is on. -/
theorem step_dataChannel (s : State) (cs : List DchCycle) (stale : Bool) (rest : List Input)
    (hin : s.inputs = .env (.dataChannel cs stale) :: rest) (hpower : s.panels.power = .on) :
    step s = .next (({ s with inputs := rest } : State).dataChannel cs stale) := by
  rw [step_input s _ rest hin, State.take, if_pos (by rw [hpower]; rfl)]
  rfl

/-- A waiting cycle is performed unless power is failing and one has been performed since the processor's turn (R63). -/
theorem admitted_one (s : State) (c : DchCycle) :
    s.admitted [c] = if s.pwrFail = true ∧ s.dchServed = true then [] else [c] := by
  cases hfail : s.pwrFail
  · simp [State.admitted, hfail]
  · rw [admitted_failing s [c] hfail]
    cases s.dchServed <;> rfl

/-- The data channel with one cycle of a started device of the channel. -/
theorem dataChannel_one (s : State) (x : Device) (c : DchCycle) (stale : Bool) (hx : s.device? c.device = some x)
    (hdch : x.dch = true) (hbusy : x.busy = true) :
    s.dataChannel [c] stale =
      if s.pwrFail = true ∧ s.dchServed = true then s
      else
        State.serveCycle { s with ahead := if stale then s.fetchedAhead else none, dchServed := s.pwrFail } c := by
  have hwaits : s.waitingCycles [c] = [c] := by
    rw [waitingCycles_one s c x hx, hdch, hbusy]; rfl
  unfold State.dataChannel
  rw [hwaits, admitted_one]
  by_cases h : s.pwrFail = true ∧ s.dchServed = true
  · rw [if_pos h, if_pos h]
  · rw [if_neg h, if_neg h]; rfl

/-- At a boundary the next word counts as fetched (R36, log 19). -/
theorem fetchedAhead_boundary (s : State) (hhung : s.hung = none) : s.fetchedAhead = some (s.ahead.getD (s.read s.pc)) := by
  simp [State.fetchedAhead, hhung]

/-- Settles O53: the one waiting cycle is performed or has to wait, and performed it stores its word. -/
theorem dataChannelInput : Obligations.DataChannelInput := by
  intro s x a v stale rest hin hpower hhung hx hdch hbusy
  have hstep := step_dataChannel s _ stale rest hin hpower
  rw [dataChannel_one { s with inputs := rest } x (.input x.code a v) stale hx hdch hbusy] at hstep
  refine ⟨fun hfail hserved => ?_, fun hadmitted => ?_⟩
  · rw [if_pos ⟨hfail, hserved⟩] at hstep
    exact hstep
  · rw [if_neg (fun h => by rcases hadmitted with h' | h' <;> simp [h'] at h)] at hstep
    refine ⟨_, hstep, memWord_setWord_same s.mem (s.phys a) v,
      fun b h0 h1 => memByte_setWord_other s.mem (s.phys a) v b h0 h1, fun k => by cases k <;> rfl, rfl, rfl,
      ⟨rfl, rfl, rfl, rfl, rfl, rfl⟩, rfl, rfl, rfl, rfl, rfl, hhung, rfl, rfl, rfl, rfl, rfl, rfl, ?_⟩
    exact congrArg (if stale then · else none) (fetchedAhead_boundary { s with inputs := rest } hhung)

/-! ### The Operator Control Unit (R362 to R370) -/

theorem step_panel (s : State) (a : PanelAct) (rest : List Input) (hin : s.inputs = .panel a :: rest) :
    step s = ({ s with inputs := rest } : State).operate a := step_input s _ rest hin

/-- The unit's switches are alive where it is installed, power is on and no parity halt has locked it (R362, R366). -/
theorem enabled_ocu (s : State) (hpower : s.panels.power = .on) (hocu : s.cfg.ocuPresent = true) :
    s.enabled .ocu = !s.panels.ocuLocked := by
  simp [State.enabled, hpower, hocu]

theorem whenStopped_enabled (s : State) (f : State → State) (hocu : s.enabled .ocu = true) (hrun : s.run = false) :
    s.whenStopped f = .next (f s) := by
  simp [State.whenStopped, hocu, hrun]

theorem whenStopped_dead (s : State) (f : State → State) (hocu : s.enabled .ocu = false) : s.whenStopped f = .next s := by
  simp [State.whenStopped, hocu]

theorem operate_reset (s : State) (hpower : s.panels.power = .on) (hocu : s.cfg.ocuPresent = true) :
    s.operate .reset = .next s.ocuReset := by
  simp [State.operate, hpower, hocu]

theorem operate_stop (s : State) (hocu : s.enabled .ocu = true) (hrun : s.run = true) (hhung : s.hung = none) :
    s.operate (.stop .ocu) = .next { s with run := false } := by
  simp [State.operate, State.stop, hocu, hrun, hhung]

theorem operate_cont (s : State) (hpower : s.panels.power = .on) (hocu : s.cfg.ocuPresent = true) (hrun : s.run = false) :
    s.operate (.cont .ocu) = .next { s with run := true, parErr := false, ahead := none } := by
  simp [State.operate, State.cont, hpower, hocu, hrun]

theorem operate_start (s : State) (hocu : s.enabled .ocu = true) (hrun : s.run = false) :
    s.operate .start = .next { s.setPc s.panels.ocuData with run := true } :=
  whenStopped_enabled s (fun s => { s.setPc s.panels.ocuData with run := true }) hocu hrun

theorem operate_exam (s : State) (hocu : s.enabled .ocu = true) (hrun : s.run = false) :
    s.operate .exam = .next (s.examine s.panels.ocuData) :=
  whenStopped_enabled s (fun s => s.examine s.panels.ocuData) hocu hrun

theorem operate_depNext (s : State) (hocu : s.enabled .ocu = true) (hrun : s.run = false) :
    s.operate .depNext = .next (s.deposit (s.pc + 1)) :=
  whenStopped_enabled s (fun s => s.deposit (s.pc + 1)) hocu hrun

/-- Under the lock of a parity halt a switch of the unit other than CONT and RESET does nothing (R353, R362). -/
theorem operate_dead (s : State) (a : PanelAct) (hdead : deadUnderLock a = true) (hocu : s.enabled .ocu = false) :
    s.operate a = .next s := by
  have hstopped (f : State → State) : s.whenStopped f = .next s := whenStopped_dead s f hocu
  cases a with
  | stop p =>
    cases p with
    | ocu => simp only [State.operate, hocu, Bool.false_eq_true, if_false]
    | mini => exact absurd hdead Bool.false_ne_true
  | apl p =>
    cases p with
    | ocu => simp only [State.operate, hocu, Bool.false_eq_true, if_false]
    | mini => exact absurd hdead Bool.false_ne_true
  | instStep => simp only [State.operate, hocu, Bool.false_and, Bool.false_eq_true, if_false]
  | digit _ | clearData => simp only [State.operate, hocu, Bool.false_eq_true, if_false]
  | start | exam | examNext | examPrev | dep _ | depNext | examAc _ | depAc _ | set64k =>
    simp only [State.operate, hstopped]
  | cont _ | reset | key _ | miniSwitches _ | selfTest _ => exact absurd hdead Bool.false_ne_true

/-- A parity error at a data word of a running processor (R353). -/
theorem step_parity_data (s : State) (a : Word) (rest : List Input) (hin : s.inputs = .parity (.data a) :: rest)
    (hpower : s.panels.power = .on) (hoption : s.cfg.parityOption = true) (hrun : s.run = true) :
    step s = .next (({ s with inputs := rest } : State).parityAt a) := by
  rw [step_input s _ rest hin]
  simp [State.take, State.parityError, hpower, hoption, hrun]

/-- Settles O54: each switch alone, then the parity halt. -/
theorem stopContinueStart : Obligations.StopContinueStart := by
  intro s rest hpower hocu
  have henabled : ({ s with inputs := rest } : State).enabled .ocu = !s.panels.ocuLocked :=
    enabled_ocu { s with inputs := rest } hpower hocu
  refine ⟨fun hin hlock hrun hhung => ?_, fun hin hrun => ?_, fun hin hlock hrun => ?_, fun a hdead hin hlock => ?_,
    fun hin => ?_, fun a hin hoption hrun => ?_⟩
  · rw [step_panel s _ rest hin]
    exact operate_stop _ (henabled.trans (by rw [hlock]; rfl)) hrun hhung
  · rw [step_panel s _ rest hin]
    exact operate_cont _ hpower hocu hrun
  · rw [step_panel s _ rest hin]
    exact operate_start _ (henabled.trans (by rw [hlock]; rfl)) hrun
  · rw [step_panel s _ rest hin]
    exact operate_dead _ a hdead (henabled.trans (by rw [hlock]; rfl))
  · rw [step_panel s _ rest hin]
    exact ⟨_, operate_reset _ hpower hocu, rfl, rfl, rfl⟩
  · exact ⟨_, step_parity_data s a rest hin hpower hoption hrun, rfl, rfl, rfl, fun _ => rfl, fun k => by cases k <;> rfl,
      rfl, rfl, rfl, rfl, rfl, rfl, rfl, rfl, rfl, rfl, rfl⟩

/-- Settles O55: RESET gives the I/O Reset signal, clears ION and stops the processor. -/
theorem ocuReset : Obligations.OcuReset := by
  intro s rest hin hpower hocu
  rw [step_panel s _ rest hin]
  exact ⟨_, operate_reset _ hpower hocu, allIdle_of_reset rfl, rfl, rfl, rfl, rfl, rfl, rfl, fun k => by cases k <;> rfl,
    rfl, rfl, rfl, rfl, rfl, rfl, fun _ => rfl, rfl, rfl⟩

/-- A digit comes in at the low end of the DATA display (R372). -/
theorem toNat_shift_in_digit (w : Word) (k : BitVec 3) :
    (w.extractLsb' 0 13 ++ k : Word).toNat = (w.toNat * 8 + k.toNat) % 65536 := by
  have hk := k.isLt
  rw [toNat_append_eq_add, BitVec.extractLsb'_toNat, Nat.shiftRight_zero]
  omega

theorem operate_digit (s : State) (k : BitVec 3) (hocu : s.enabled .ocu = true) :
    s.operate (.digit k) = .next (s.setData (s.panels.ocuData.extractLsb' 0 13 ++ k)) := by
  simp [State.operate, hocu]

/-- Settles O56: EXAM and DEP NEXT on a stopped processor, a digit on any. -/
theorem examineAndDeposit : Obligations.ExamineAndDeposit := by
  intro s rest hpower hocu hlock
  have henabled : ({ s with inputs := rest } : State).enabled .ocu = true :=
    (enabled_ocu { s with inputs := rest } hpower hocu).trans (by rw [hlock]; rfl)
  refine ⟨fun hin hrun => ?_, fun hin hrun => ?_, fun k hin => ?_⟩
  · rw [step_panel s _ rest hin]
    exact ⟨_, operate_exam _ henabled hrun, rfl, rfl, fun _ => rfl, fun k => by cases k <;> rfl, rfl,
      ⟨rfl, rfl, rfl, rfl, rfl, rfl⟩, rfl⟩
  · rw [step_panel s _ rest hin]
    refine ⟨_, operate_depNext _ henabled hrun, rfl, memWord_setWord_same s.mem _ _, fun b hb => ?_, rfl,
      fun k => by cases k <;> rfl, rfl, ⟨rfl, rfl, rfl, rfl, rfl, rfl⟩, rfl⟩
    exact memByte_setWord_other s.mem (s.pc + 1) _ b (by omega) (by omega)
  · rw [step_panel s _ rest hin]
    exact ⟨_, operate_digit _ k henabled, toNat_shift_in_digit _ k, rfl, fun _ => rfl, fun k => by cases k <;> rfl, rfl,
      ⟨rfl, rfl, rfl, rfl, rfl, rfl⟩, rfl⟩

/-! ### APL and the return of power (R391 to R395) -/

/-- The PROM goes to the words from 177000 on (R393). -/
theorem memByte_loadProm (c : Config) (n : Nat) (m : Memory) (b : Nat) (hn : n ≤ 512) (hb : b < 2 * 0o177000) :
    memByte (loadProm c n m) b = memByte m b := by
  induction n with
  | zero => rfl
  | succ n ih =>
    have haddr : (0o177000#16 + BitVec.ofNat 16 n : Word).toNat = 0o177000 + n := by
      rw [BitVec.toNat_add, BitVec.toNat_ofNat, BitVec.toNat_ofNat]; omega
    exact (memByte_setWord_other _ _ _ b (by omega) (by omega)).trans (ih (by omega))

theorem getLsbD_7_of_lt (v : BitVec 8) (h : v.toNat < 128) : v.getLsbD 7 = false := by
  have hbit := toNat_getLsbD v 7
  cases hv : v.getLsbD 7
  · rfl
  · rw [hv, Bool.toNat_true] at hbit; omega

/-- APL on the Mini-panel of a stopped processor that loads MANIP (R365, R375, R393). -/
theorem operate_apl_mini (s : State) (hpower : s.panels.power = .on) (hkey : s.panels.key = .on) (hrun : s.run = false)
    (hself : s.panels.selfTest = false) (hswitches : s.panels.miniSwitches.toNat < 128) :
    s.operate (.apl .mini) = .next { s.aplLoad with pc := s.cfg.manipEntry.getD Config.promEntry } := by
  have henabled : s.enabled .mini = true := by simp [State.enabled, hpower, hkey]
  have hapl : s.apl = .next { s.aplLoad with pc := s.cfg.manipEntry.getD Config.promEntry } := by
    simp only [State.apl, hrun, hself, getLsbD_7_of_lt _ hswitches, Bool.false_and, Bool.false_eq_true, if_false]
  exact (if_pos henabled).trans hapl

/-- Settles O57: the load stores only at 177000 and above. -/
theorem aplLoadsManip : Obligations.AplLoadsManip := by
  intro s rest hin hpower hkey hrun hself hswitches
  rw [step_panel s _ rest hin]
  refine ⟨_, operate_apl_mini _ hpower hkey hrun hself hswitches, allIdle_of_reset rfl, rfl, rfl, rfl, rfl, rfl, rfl, rfl,
    memWord_setWord_same _ _ _, fun b hb => ?_, fun k => by cases k <;> rfl, rfl, rfl, rfl⟩
  have htop : (0o177000#16 : Word).toNat = 0o177000 := rfl
  exact (memByte_setWord_other _ _ _ b (by omega) (by omega)).trans (memByte_loadProm s.cfg 512 s.mem b (Nat.le_refl _) hb)

/-- Power returns with the key at ON or AUTO (R374). -/
theorem powerReturns_on (s : State) (v : PowerUp) (hpower : s.panels.power = .lost)
    (hkey : s.panels.key = .on ∨ s.panels.key = .auto) : s.powerReturns v = s.powerOn v := by
  rcases hkey with hkey | hkey <;> simp [State.powerReturns, hpower, hkey]

/-- Settles O58: with battery backup the return of a lost power is a restart. -/
theorem powerReturns : Obligations.PowerReturns := by
  intro s v rest hin hpower hbattery hkey
  have hrestart : (s.cfg.batteryBackup && s.panels.power == .lost) = true := by rw [hbattery, hpower]; rfl
  refine ⟨({ s with inputs := rest } : State).powerOn v, ?_, ?_, ?_, rfl, rfl, rfl, rfl, rfl, allIdle_of_reset rfl,
    fun hkept b => ?_, rfl, rfl⟩
  · rw [step_input s _ rest hin]
    exact congrArg Host.Outcome.next (powerReturns_on _ v hpower hkey)
  · exact if_pos hrestart
  · show ((s.cfg.batteryBackup && s.panels.power == .lost) && s.panels.key == .auto) = _
    rw [hrestart, Bool.true_and]
    cases s.panels.key <;> rfl
  · show memByte (if (s.cfg.batteryBackup && s.panels.power == .lost) && s.panels.memKept then s.mem
      else memoryOf v.mem) b = _
    rw [hrestart, hkept]; rfl

end Sys2Proof.Proofs

/-! The processor's turn (spec/60_exceptions.md section 3): the instruction it decodes, the interrupt it takes, and the
return from it. -/

namespace Sys2Proof.Proofs

open Sys2Proof Sys2Proof.Machine Sys2Proof.Claims Sys2Proof.Laws

/-! ### The word after the first one matters to a two-word instruction only (R80) -/

theorem bitInstr_second (group : BitVec 3) (act : BitVec 2) (ind : Bool) (second : Word) :
    bitInstr group act ind second = bitInstr group act ind 0 ∨ ∃ i, bitInstr group act ind 0 = some i ∧ i.words = 2 := by
  unfold bitInstr
  split
  case h_12 => exact .inl rfl
  all_goals exact .inr ⟨_, rfl, rfl⟩

theorem fullInstr_second (op : BitVec 6) (second : Word) :
    fullInstr op second = fullInstr op 0 ∨ ∃ i, fullInstr op 0 = some i ∧ i.words = 2 := by
  unfold fullInstr
  split
  case h_2 | h_3 | h_4 | h_5 => exact .inr ⟨_, rfl, rfl⟩
  all_goals exact .inl rfl

theorem firmInstr_second (w second : Word) :
    firmInstr w second = firmInstr w 0 ∨ ∃ i, firmInstr w 0 = some i ∧ i.words = 2 := by
  unfold firmInstr
  split
  · exact bitInstr_second _ _ _ second
  · exact .inl rfl
  · exact fullInstr_second _ second
  · exact .inl rfl

theorem decodeParam_second (enc : EncTable) (w second : Word) :
    decodeParam enc w second = decodeParam enc w 0 ∨ (decodeParam enc w 0).words = 2 := by
  unfold decodeParam
  cases enc.op? w with
  | none => exact .inl rfl
  | some op =>
    cases op
    case trace => exact .inr rfl
    all_goals exact .inl rfl

theorem decodeEis_second (enc : EncTable) (w second : Word) :
    decodeEis enc w second = decodeEis enc w 0 ∨ (decodeEis enc w 0).words = 2 := by
  rw [decodeEis_eq enc w second, decodeEis_eq enc w 0]
  rcases firmInstr_second w second with h | ⟨i, h, hwords⟩
  · rw [h]
    cases firmInstr w 0 with
    | none => exact decodeParam_second enc w second
    | some i => exact .inl rfl
  · rw [h]
    exact .inr hwords

theorem decode_second (enc : EncTable) (eis : Bool) (w second : Word) :
    decode enc eis w second = decode enc eis w 0 ∨ (decode enc eis w 0).words = 2 := by
  unfold decode
  split
  case h_5 =>
    split
    · exact decodeEis_second enc w second
    · exact .inl rfl
  all_goals exact .inl rfl

/-- A list of words begins with the instruction that the machine decodes from its first two. -/
theorem decode_of_decodeWords (enc : EncTable) (eis : Bool) (w second : Word) (i : Instr) (rest : List Word)
    (h : decodeWords enc eis [w, second] = .ok (i, rest)) : decode enc eis w second = i := by
  simp only [decodeWords] at h
  split at h
  next hwords =>
    cases h
    rfl
  next hwords =>
    cases h
    exact (decode_second enc eis w second).resolve_right hwords

/-! ### The processor's turn without an interrupt (R343, R352) -/

theorem interruptDue_of_noInterrupt (s : State) (h : NoInterrupt s) : s.interruptDue = false := by
  unfold State.interruptDue
  rcases h with hion | hpending | ⟨hfail, hdev⟩
  · rw [hion]; simp
  · rw [hpending]; simp
  · have hnone : s.devices.any Device.requesting = false := by
      rw [List.any_eq_false]
      intro d hd
      rw [requesting_eq_false d (hdev d hd)]
      exact Bool.false_ne_true
    rw [State.intLine, hnone, hfail]; simp

theorem step_executes (s : State) (hrun : s.run = true) (hhung : s.hung = none) (hin : s.inputs = [])
    (hno : NoInterrupt s) : step s = s.proceeds.execute := by
  rw [step_no_input s hin]
  exact turnTaken_executes s.proceeds hrun hhung (interruptDue_of_noInterrupt s.proceeds hno)

theorem execute_of_no_misread (s : State) (h : s.misread = none) :
    s.execute = exec s.nextInstr { s with ahead := none } := by
  simp only [State.execute, h]

theorem execute_of_misread (s t : State) (h : s.misread ≠ none)
    (hexec : exec s.nextInstr { s with ahead := none } = .next t) : s.execute = .next t.rereads := by
  simp only [State.execute, hexec]
  split
  next hnone => exact absurd hnone h
  next => rfl

/-- Settles O48: the turn decodes the words that the list of two decodes to. -/
theorem stepRunsInstruction : Obligations.StepRunsInstruction := by
  intro s i rest hrun hhung hin hno hdec
  have hinstr : s.proceeds.nextInstr = i := decode_of_decodeWords _ _ _ _ i rest hdec
  have hstep := step_executes s hrun hhung hin hno
  refine ⟨fun hmis => ?_, fun hmis t hexec => ?_⟩
  · rw [hstep, execute_of_no_misread s.proceeds hmis, hinstr]
    rfl
  · rw [hstep]
    exact execute_of_misread s.proceeds t hmis (by rw [hinstr]; exact hexec)

/-! ### Interrupt entry (R343, R344, R348) -/

theorem interruptDue_of_request (s : State) (hrun : s.run = true) (hion : s.ion = true) (hpending : s.ionPending = false)
    (hline : (∃ d ∈ s.devices, d.intReq = true ∧ d.intDisable = false) ∨ s.pwrFail = true) : s.interruptDue = true := by
  have hint : s.intLine = true := by
    unfold State.intLine
    rcases hline with ⟨d, hd, hreq⟩ | hfail
    · rw [List.any_eq_true.2 ⟨d, hd, (requesting_iff d).2 hreq⟩]; rfl
    · rw [hfail, Bool.or_true]
  simp [State.interruptDue, hrun, hion, hpending, hint]

/-- The vector word is not the word that the pc is saved in. -/
theorem read_one_interruptSave (s : State) : s.interruptSave.read 0o1#16 = s.read 0o1#16 := by
  refine read_write_other { s with ion := false, ionPending := false, ahead := none } 0o0#16 0o1#16 s.pc ?_
  rw [phys_low _ _ (by decide), phys_low _ _ (by decide)]
  decide

/-- Settles O49: the turn is the interrupt entry, which stores the pc and reads the vector. -/
theorem interruptEntry : Obligations.InterruptEntry := by
  intro s hrun hhung hin hion hpending hline hvector
  have hdue : s.proceeds.interruptDue = true := interruptDue_of_request s.proceeds hrun hion hpending hline
  refine ⟨s.proceeds.interruptEntry.rereads, ?_, ?_⟩
  · rw [step_no_input s hin]
    exact turnTaken_interrupt s.proceeds hrun hhung hdue
  · rw [interruptEntry_direct s.proceeds hvector]
    exact ⟨rfl, rfl, memWord_setWord_same s.mem (s.phys 0) s.pc, read_one_interruptSave s.proceeds,
      fun b h0 h1 => memByte_setWord_other s.mem (s.phys 0) s.pc b h0 h1, fun k => by cases k <;> rfl, rfl, rfl, rfl, rfl,
      hrun, rfl, rfl, rfl, ⟨rfl, rfl⟩, rfl, hhung, rfl, rfl, rfl⟩

/-! ### The return from an interrupt (R350) -/

theorem decode_inten (enc : EncTable) (eis : Bool) (second : Word) : decode enc eis 0o60177#16 second = .inten .a0 :=
  decode_encodeIo_cpu enc eis .a0 0b000#3 .s second

theorem decode_jmp_through_zero (enc : EncTable) (eis : Bool) (second : Word) :
    decode enc eis 0o2000#16 second = .jmp ⟨true, .pageZero, 0⟩ :=
  decode_encodeMrj enc eis 0b00#2 ⟨true, .pageZero, 0⟩ second

/-- The sequence through location 0 ends with the word there. -/
theorem reaches_at_zero (s : State) (h : s.mode64k = true ∨ (s.read 0).toNat < 32768) :
    Reaches s ⟨true, .pageZero, 0⟩ (s.read 0) s := by
  obtain ⟨hw, hl⟩ := level_pageZero s 0 (.inl (by decide))
  have hends : s.chainEnds (s.levelWord ((0 : BitVec 8).setWidth 16)) = true := by
    rw [hw]
    cases hmode : s.mode64k with
    | true => exact chainEnds_64k s _ hmode
    | false =>
      rw [chainEnds_32k s _ hmode]
      exact decide_eq_true (h.resolve_left (by rw [hmode]; exact Bool.false_ne_true))
  unfold Reaches
  rw [if_pos rfl]
  change followChain (65535 + 1) s ((0 : BitVec 8).setWidth 16) = _
  rw [followChain_succ, if_pos hends, hw, hl]
  rfl

/-- INTEN in its turn (R202, R345). -/
theorem step_inten (s : State) (hrun : s.run = true) (hhung : s.hung = none) (hin : s.inputs = [])
    (hahead : s.ahead = none) (hmis : s.misread = none) (hno : NoInterrupt s) (hword : s.read s.pc = 0o60177#16) :
    step s = .next (({ s with ahead := none, dchServed := false } : State).cpuDone .nio .s) := by
  have hinstr : s.proceeds.nextInstr = .inten .a0 := by
    unfold State.nextInstr State.nextWord
    rw [ahead_proceeds, hahead, Option.getD_none, read_proceeds, pc_proceeds, hword, decode_inten]
  rw [step_executes s hrun hhung hin hno, execute_of_no_misread s.proceeds hmis, hinstr]
  rfl

/-- JMP @0 in its turn (R114). -/
theorem step_jmp_through_zero (s : State) (hrun : s.run = true) (hhung : s.hung = none) (hin : s.inputs = [])
    (hahead : s.ahead = none) (hmis : s.misread = none) (hno : NoInterrupt s) (hword : s.read s.pc = 0o2000#16)
    (hzero : s.mode64k = true ∨ (s.read 0).toNat < 32768) :
    step s = .next (({ s with ahead := none, dchServed := false } : State).complete (s.read 0)) := by
  have hinstr : s.proceeds.nextInstr = .jmp ⟨true, .pageZero, 0⟩ := by
    unfold State.nextInstr State.nextWord
    rw [ahead_proceeds, hahead, Option.getD_none, read_proceeds, pc_proceeds, hword, decode_jmp_through_zero]
  rw [step_executes s hrun hhung hin hno, execute_of_no_misread s.proceeds hmis, hinstr]
  exact next_memRef (memRef_reaches .jmp _ _ _ _ (reaches_at_zero { s with ahead := none, dchServed := false } hzero))

/-- Settles O51: INTEN leaves ION_PENDING set, so that no interrupt comes before JMP @0. -/
theorem returnFromInterrupt : Obligations.ReturnFromInterrupt := by
  intro s hrun hhung hin hahead hmis hion hinten hjmp hzero
  have hfirst := step_inten s hrun hhung hin hahead hmis (.inl hion) hinten
  have hsecond := step_jmp_through_zero (({ s with ahead := none, dchServed := false } : State).cpuDone .nio .s)
    hrun hhung hin rfl hmis (.inr (.inl rfl)) hjmp hzero
  refine ⟨_, (run_succ_of_step 1 s _ hfirst).trans (run_succ_of_step 0 _ _ hsecond), rfl, rfl, rfl,
    fun k => by cases k <;> rfl, rfl, fun _ => rfl, hrun, rfl, rfl, rfl, rfl, rfl, rfl⟩

end Sys2Proof.Proofs

/-! Decimal and binary arithmetic and the byte instructions (spec/46_eis_nybble_loadstore_vjsr.md section 3,
spec/47_eis_byte.md, spec/48_eis_muldiv_move_trace.md section 1). -/

namespace Sys2Proof.Proofs

open Sys2Proof Sys2Proof.Machine Sys2Proof.Claims Sys2Proof.Laws

/-! ### Decimal digits (R280, R284) -/

theorem nybbles_append (a b c d : BitVec 4) : nybbles (a ++ b ++ c ++ d) = [a, b, c, d] := by
  have ha := a.isLt
  have hb := b.isLt
  have hc := c.isLt
  have hd := d.isLt
  unfold nybbles
  simp only [List.cons.injEq, ← BitVec.toNat_inj, BitVec.extractLsb'_toNat, toNat_append_eq_add, Nat.shiftRight_eq_div_pow,
    Nat.reducePow, and_true]
  omega

theorem toNat_digit (n : Nat) : (BitVec.ofNat 4 (n % 10)).toNat = n % 10 := by
  rw [BitVec.toNat_ofNat]; omega

theorem bcdValid_toBcd (n : Nat) : bcdValid (toBcd n) = true := by
  unfold bcdValid toBcd
  rw [nybbles_append]
  simp only [List.all_cons, List.all_nil, toNat_digit, Bool.and_true, Bool.and_eq_true, decide_eq_true_eq]
  omega

theorem bcdValue_toBcd (n : Nat) (h : n < 10000) : bcdValue (toBcd n) = n := by
  unfold bcdValue toBcd
  rw [nybbles_append]
  simp only [List.foldl_cons, List.foldl_nil, toNat_digit]
  omega

/-- The nybbles as digits of the number to the base 16. -/
theorem bcdValid_iff (w : Word) : bcdValid w = true ↔ ∀ k, k < 4 → w.toNat / 16 ^ k % 16 ≤ 9 := by
  unfold bcdValid nybbles
  simp only [List.all_cons, List.all_nil, Bool.and_true, Bool.and_eq_true, decide_eq_true_eq, BitVec.extractLsb'_toNat,
    Nat.shiftRight_eq_div_pow]
  constructor
  · rintro ⟨h3, h2, h1, h0⟩ k hk
    match k, hk with
    | 0, _ => exact h0
    | 1, _ => exact h1
    | 2, _ => exact h2
    | 3, _ => exact h3
  · intro h
    exact ⟨h 3 (by decide), h 2 (by decide), h 1 (by decide), h 0 (by decide)⟩

/-! ### DECADD and DECSUB (R283 to R285) -/

theorem exec_decadd_of_digits (s : State) (h : s.bcdOperands = true) :
    exec .decadd s = .next (({ s with
      a0 := toBcd ((bcdValue s.a0 + bcdValue s.a1 + s.c.toNat) % 10000)
      c := 10000 ≤ bcdValue s.a0 + bcdValue s.a1 + s.c.toNat } : State).advance 1 false) :=
  congrArg Host.Outcome.next (if_pos h)

theorem exec_decsub_of_digits (s : State) (h : s.bcdOperands = true) :
    exec .decsub s = .next (({ s with
      a0 := toBcd ((bcdValue s.a0 + 10000 - (bcdValue s.a1 + (!s.c).toNat)) % 10000)
      c := bcdValue s.a1 + (!s.c).toNat ≤ bcdValue s.a0 } : State).advance 1 false) :=
  congrArg Host.Outcome.next (if_pos h)

/-- Settles O36: the operands are digits, so the sums are those of the two numbers. -/
theorem decimalArithmetic : Obligations.DecimalArithmetic := by
  intro s x y hx hy h0 h1
  have hdigits : s.bcdOperands = true := by
    unfold State.bcdOperands
    rw [h0, h1, bcdValid_toBcd, bcdValid_toBcd]; rfl
  have hvx : bcdValue s.a0 = x := by rw [h0, bcdValue_toBcd x hx]
  have hvy : bcdValue s.a1 = y := by rw [h1, bcdValue_toBcd y hy]
  have hborrow : (!s.c).toNat = 1 - s.c.toNat := by cases s.c <;> rfl
  refine ⟨⟨_, exec_decadd_of_digits s hdigits, ?_, ?_, acsBut_a0 rfl rfl rfl, rfl, fun _ => rfl,
    (frame_registers s _ _ _ _ _).plain_advance 1 false⟩, ⟨_, exec_decsub_of_digits s hdigits, ?_, ?_,
    acsBut_a0 rfl rfl rfl, rfl, fun _ => rfl, (frame_registers s _ _ _ _ _).plain_advance 1 false⟩⟩
  · rw [a0_advance, hvx, hvy]
  · rw [c_advance, hvx, hvy]
  · rw [a0_advance, hvx, hvy, hborrow, ← Nat.sub_sub]
  · rw [c_advance, hvx, hvy, hborrow]

/-- Settles O37: A0 and the carry are free values, nothing else is touched. -/
theorem invalidDigitsRun : Obligations.InvalidDigitsRun := by
  intro s ⟨k, hk, hbig⟩ i hi
  have hdigits : ¬ s.bcdOperands = true := by
    unfold State.bcdOperands
    rw [Bool.and_eq_true, bcdValid_iff, bcdValid_iff]
    rintro ⟨h0, h1⟩
    rcases hbig with hbig | hbig
    · exact absurd (h0 k hk) (by omega)
    · exact absurd (h1 k hk) (by omega)
  have hexec : exec i s = .next s.bcdUnstated := by
    rcases List.mem_pair.1 hi with rfl | rfl
    · exact congrArg Host.Outcome.next (if_neg hdigits)
    · exact congrArg Host.Outcome.next (if_neg hdigits)
  exact ⟨_, hexec, acsBut_a0 rfl rfl rfl, rfl, fun _ => rfl,
    (frame_registers s _ _ _ _ _).plainFree_drawn_advance 1 1 false⟩

/-! ### Double words: CONVERT, ABINMULTIPLY and BINDIVIDE (R286, R320, R321) -/

/-- The two halves hold a number of 32 bits. -/
theorem halves_eq (t : Nat) (h : t < 2 ^ 32) : (highHalf t).toNat * 65536 + (lowHalf t).toNat = t := by
  unfold highHalf lowHalf
  rw [BitVec.toNat_ofNat, BitVec.toNat_ofNat]
  omega

/-- Settles O38: digits that fit, digits that overflow, and a nybble that is no digit. -/
theorem convertStep : Obligations.ConvertStep := by
  intro s
  have hfree (carry : Bool) : PlainFree s (s.convertUnstated carry) :=
    (frame_registers s _ _ _ _ _).plainFree_drawn_advance 2 1 false
  by_cases hdigits : bcdValid s.a0 = true
  · have hnot : ¬ (!bcdValid s.a0) = true := by rw [hdigits]; exact Bool.false_ne_true
    by_cases hfits : (s.a1.toNat * 65536 + s.a2.toNat) * 10 + s.a0.toNat < 2 ^ 32
    · refine ⟨_, congrArg Host.Outcome.next ((if_neg hnot).trans (if_pos hfits)), rfl, rfl, rfl, fun _ => rfl,
        plainFree_of_plain ((frame_registers s _ _ _ _ _).plain_advance 1 false), fun _ => ?_⟩
      rw [if_pos hfits]
      exact ⟨halves_eq _ hfits, rfl⟩
    · refine ⟨_, congrArg Host.Outcome.next ((if_neg hnot).trans (if_neg hfits)), rfl, rfl, rfl, fun _ => rfl,
        hfree true, fun _ => ?_⟩
      rw [if_neg hfits]
      rfl
  · have hnot : (!bcdValid s.a0) = true := by rw [Bool.eq_false_iff.2 hdigits]; rfl
    exact ⟨_, congrArg Host.Outcome.next (if_pos hnot), rfl, rfl, rfl, fun _ => rfl, hfree _,
      fun h => absurd ((bcdValid_iff _).2 h) hdigits⟩

theorem product_fits (s : State) : s.a0.toNat * s.a2.toNat + s.a1.toNat < 2 ^ 32 := by
  have h0 := s.a0.isLt
  have h1 := s.a1.isLt
  have h2 := s.a2.isLt
  have hprod : s.a0.toNat * s.a2.toNat ≤ 65535 * 65535 := Nat.mul_le_mul (by omega) (by omega)
  omega

/-- Where the divisor is greater than the high half the quotient and the remainder each fit a word (R321). -/
theorem quotient_remainder (s : State) (h : s.a1.toNat < s.a0.toNat) :
    (BitVec.ofNat 16 (pairValue s.a1 s.a2 / s.a0.toNat)).toNat = pairValue s.a1 s.a2 / s.a0.toNat ∧
      (BitVec.ofNat 16 (pairValue s.a1 s.a2 % s.a0.toNat)).toNat = pairValue s.a1 s.a2 % s.a0.toNat := by
  have h0 := s.a0.isLt
  have h2 := s.a2.isLt
  have hquot : pairValue s.a1 s.a2 / s.a0.toNat < 65536 := by
    refine Nat.div_lt_of_lt_mul ?_
    unfold pairValue
    omega
  have hrem : pairValue s.a1 s.a2 % s.a0.toNat < s.a0.toNat := Nat.mod_lt _ (by omega)
  rw [BitVec.toNat_ofNat, BitVec.toNat_ofNat]
  exact ⟨Nat.mod_eq_of_lt hquot, Nat.mod_eq_of_lt (by omega)⟩

/-- Settles O44: the product fits two words, and so do quotient and remainder unless BINDIVIDE overflows. -/
theorem multiplyAndDivide : Obligations.MultiplyAndDivide := by
  intro s
  refine ⟨⟨_, rfl, halves_eq _ (product_fits s), rfl, rfl, rfl, fun _ => rfl,
    (frame_registers s _ _ _ _ _).plainFree_drawn_advance 1 1 false⟩, ?_⟩
  by_cases hover : s.a0.toNat ≤ s.a1.toNat
  · refine ⟨_, congrArg Host.Outcome.next (if_pos hover), rfl, rfl, rfl, fun _ => rfl,
      (frame_registers s _ _ _ _ _).plainFree_drawn_advance 2 1 false, ?_⟩
    rw [if_pos hover]
    rfl
  · refine ⟨_, congrArg Host.Outcome.next (if_neg hover), rfl, rfl, rfl, fun _ => rfl,
      plainFree_of_plain ((frame_registers s _ _ _ _ _).plain_advance 1 false), ?_⟩
    obtain ⟨hquot, hrem⟩ := quotient_remainder s (by omega)
    rw [if_neg hover, a1_advance, a2_advance, hquot, hrem]
    exact ⟨rfl, Nat.div_add_mod' _ _, Nat.mod_lt _ (by omega)⟩

/-! ### A byte of memory (R51, R300) -/

theorem toNat_byteOf (w : Word) (low : Bool) : (byteOf w low).toNat = if low then w.toNat % 256 else w.toNat / 256 := by
  have hw := w.isLt
  cases low
  · rw [byteOf_high, BitVec.extractLsb'_toNat, Nat.shiftRight_eq_div_pow, if_neg Bool.false_ne_true]; omega
  · rw [byteOf_low, BitVec.extractLsb'_toNat, Nat.shiftRight_zero, if_pos rfl]

theorem toNat_getByte (s : State) (base b : Word) : (s.getByte base b).toNat = byteAt s base b := by
  unfold State.getByte byteAt byteWord
  rw [toNat_byteOf, getLsbD_0_eq]
  by_cases h : b.toNat % 2 = 0
  · rw [if_pos h, if_neg (by rw [decide_eq_true_iff]; omega)]
  · rw [if_neg h, if_pos (decide_eq_true (by omega))]

theorem bytePlace_eq (s : State) (base b : Word) :
    bytePlace s base b = 2 * (s.phys (byteWord base b)).toNat + (b.getLsbD 0).toNat := by
  rw [toNat_getLsbD, Nat.pow_zero, Nat.div_one]
  rfl

theorem memByte_setWord_same (m : Memory) (a v : Word) (low : Bool) :
    memByte (setWord m a v) (2 * a.toNat + low.toNat) = byteOf v low := by
  cases low
  · exact memByte_setWord_high m a v
  · exact memByte_setWord_low m a v

theorem byteOf_memWord (m : Memory) (a : Word) (low : Bool) :
    byteOf (memWord m a) low = memByte m (2 * a.toNat + low.toNat) := by
  refine BitVec.eq_of_toNat_eq ?_
  have hhigh := (memByte m (2 * a.toNat)).isLt
  have hlow := (memByte m (2 * a.toNat + 1)).isLt
  rw [toNat_byteOf, memWord, toNat_append_eq_add]
  cases low
  · change (_ * 256 + _) / 256 = (memByte m (2 * a.toNat)).toNat
    omega
  · change (_ * 256 + _) % 256 = (memByte m (2 * a.toNat + 1)).toNat
    omega

theorem memByte_putByte_same (s : State) (base b : Word) (v : Byte) :
    memByte (s.putByte base b v).mem (bytePlace s base b) = v := by
  rw [bytePlace_eq]
  exact (memByte_setWord_same s.mem _ _ (b.getLsbD 0)).trans (withByte_same _ _ v)

/-- The word is written back as it was read, but for the byte, where no parity error is pending. -/
theorem memByte_putByte_other (s : State) (base b : Word) (v : Byte) (hmis : s.misread = none) (p : Nat)
    (hp : p ≠ bytePlace s base b) : memByte (s.putByte base b v).mem p = memByte s.mem p := by
  rw [bytePlace_eq] at hp
  by_cases hother : p = 2 * (s.phys (byteWord base b)).toNat + (!b.getLsbD 0).toNat
  · rw [hother]
    refine (memByte_setWord_same s.mem _ _ _).trans ((withByte_other _ _ v).trans ?_)
    rw [read_stored s _ hmis]
    exact byteOf_memWord s.mem _ _
  · refine memByte_setWord_other s.mem _ _ p ?_ ?_
    all_goals
      cases hbit : b.getLsbD 0
      all_goals
        rw [hbit] at hp hother
        simp only [Bool.not_false, Bool.not_true, Bool.toNat_false, Bool.toNat_true] at hp hother
        omega

theorem toNat_a0Byte (s : State) : s.a0Byte.toNat = s.a0.toNat % 256 := by
  unfold State.a0Byte
  rw [BitVec.extractLsb'_toNat, Nat.shiftRight_zero]

theorem frame_putByte (s : State) (base b : Word) (v : Byte) : Frame s (s.putByte base b v) := frame_write s _ _

/-! ### The byte loads and stores (R302 to R309) -/

theorem getDoes_of_exec (i : Instr) (base b : Word) (s : State)
    (hexec : exec i s = .next ((s.gotByte (s.getByte base b)).advance 1 false)) : GetDoes i base b none s := by
  refine ⟨_, hexec, ?_, fun k hk => ?_, rfl, rfl, fun _ => rfl, (frame_registers s _ _ _ _ _).plain_advance 1 false⟩
  · exact (toNat_zext16 _).trans (toNat_getByte s base b)
  · cases k
    case a0 => exact absurd rfl hk
    all_goals rfl

theorem getDoes_of_exec_step (i : Instr) (base b : Word) (s : State)
    (hexec : exec i s = .next (({ s.gotByte (s.getByte base b) with a2 := s.a2 + 1 } : State).advance 1 false)) :
    GetDoes i base b (some .a2) s := by
  refine ⟨_, hexec, ?_, fun k hk => ?_, rfl, rfl, fun _ => rfl, (frame_registers s _ _ _ _ _).plain_advance 1 false⟩
  · exact (toNat_zext16 _).trans (toNat_getByte s base b)
  · cases k
    case a0 => exact absurd rfl hk
    all_goals rfl

/-- Settles O40: four loads, two of which step A2. -/
theorem getBytes : Obligations.GetBytes := fun s =>
  ⟨getDoes_of_exec .getbyte 0 s.a1 s rfl, getDoes_of_exec_step .sgetbyte 0 s.a2 s rfl,
    getDoes_of_exec .xgetbyte _ s.a1 s rfl, getDoes_of_exec_step .xsgetbyte _ s.a2 s rfl⟩

theorem putDoes_of_exec (i : Instr) (base b : Word) (s : State) (hmis : s.misread = none)
    (hexec : exec i s = .next ((s.putByte base b s.a0Byte).advance 1 false)) : PutDoes i base b none s := by
  refine ⟨_, hexec, ?_, memByte_putByte_other s base b _ hmis, fun k => by cases k <;> rfl, rfl, rfl,
    (frame_putByte s base b _).plain_advance 1 false⟩
  rw [mem_advance, memByte_putByte_same, toNat_a0Byte]

theorem putDoes_of_exec_step (i : Instr) (base b : Word) (s : State) (hmis : s.misread = none)
    (hexec : exec i s = .next (({ s.putByte base b s.a0Byte with a1 := s.a1 + 1 } : State).advance 1 false)) :
    PutDoes i base b (some .a1) s := by
  refine ⟨_, hexec, ?_, memByte_putByte_other s base b _ hmis, fun k => by cases k <;> rfl, rfl, rfl,
    ((frame_putByte s base b _).trans (frame_registers _ _ _ _ _ _)).plain_advance 1 false⟩
  exact (congrArg BitVec.toNat (memByte_putByte_same s base b _)).trans (toNat_a0Byte s)

/-- Settles O41: four stores, two of which step A1. -/
theorem putBytes : Obligations.PutBytes := fun s hmis =>
  ⟨putDoes_of_exec .putbyte 0 s.a1 s hmis rfl, putDoes_of_exec_step .sputbyte 0 s.a1 s hmis rfl,
    putDoes_of_exec .xputbyte _ s.a1 s hmis rfl, putDoes_of_exec_step .xsputbyte _ s.a1 s hmis rfl⟩

/-! ### IGETBYTE, IPUTBYTE and XTRANSLATE (R310 to R312) -/

theorem exec_igetbyte_below (d : BitVec 4) (s : State) (p b : Word) (hp : p = s.a2 + d.setWidth 16) (hb : b = s.read p)
    (h : b.toNat < s.a1.toNat) :
    exec (.igetbyte d) s =
      .next (((s.write p (b + 1)).gotByte ((s.write p (b + 1)).getByte 0 (b + 1))).advance 1 true) := by
  subst hp hb
  exact congrArg Host.Outcome.next (if_neg fun hle => absurd (BitVec.le_def.1 hle) (by omega))

theorem exec_iputbyte_below (d : BitVec 4) (s : State) (p b : Word) (hp : p = s.a2 + d.setWidth 16) (hb : b = s.read p)
    (h : b.toNat < s.a1.toNat) :
    exec (.iputbyte d) s = .next (((s.write p (b + 1)).putByte 0 (b + 1) s.a0Byte).advance 1 true) := by
  subst hp hb
  exact congrArg Host.Outcome.next (if_neg fun hle => absurd (BitVec.le_def.1 hle) (by omega))

theorem sameAcs_putByte (s : State) (base b : Word) (v : Byte) : SameAcs s (s.putByte base b v) := ac_write s _ _

/-- Settles O42: at the limit both only advance; below it the pointer cell is written first. -/
theorem limitedBytes : Obligations.LimitedBytes := by
  intro d s u p b hmis hp hb hu
  have humis : u.misread = none := by rw [hu, misread_write, hmis]; rfl
  have hframe : Frame s u := by rw [hu]; exact frame_write s p (b + 1)
  have hread : u.read p = b + 1 := by rw [hu]; exact read_write_same s p _
  have hmem : MemoryBut p s u := by rw [hu]; exact memoryBut_write s p _
  have hacs : SameAcs s u := by rw [hu]; exact ac_write s p _
  have hregs : u.c = s.c ∧ u.pc = s.pc := by rw [hu]; exact ⟨rfl, rfl⟩
  have hplace : bytePlace u 0 (b + 1) = bytePlace s 0 (b + 1) := by rw [hu]; rfl
  obtain ⟨hc, hpc⟩ := hregs
  have hpast : u.pc + 1 + 1 = s.pc + 2 := by rw [hpc]; exact BitVec.add_assoc s.pc 1 1
  refine ⟨fun hlimit i hi => ?_, fun hlimit => ⟨?_, ?_⟩⟩
  · have hle : s.a1 ≤ s.read (s.a2 + d.setWidth 16) := by rwa [← hp, ← hb]
    have hexec : exec i s = .next (s.advance 1 false) := by
      rcases List.mem_pair.1 hi with rfl | rfl
      · exact congrArg Host.Outcome.next (if_pos hle)
      · exact congrArg Host.Outcome.next (if_pos hle)
    exact ⟨_, hexec, rfl, ac_advance s 1 false, rfl, fun _ => rfl, plain_advance s 1 false⟩
  · have hexec := exec_igetbyte_below d s p b hp hb hlimit
    rw [← hu] at hexec
    exact ⟨_, hexec, hpast, (toNat_zext16 _).trans (toNat_getByte u 0 _), acsBut_a0 (hacs .a1) (hacs .a2) (hacs .a3), hc,
      hread, hmem, (hframe.trans (frame_registers u _ _ _ _ _)).plain_advance 1 true⟩
  · have hexec := exec_iputbyte_below d s p b hp hb hlimit
    rw [← hu] at hexec
    rw [← hplace]
    exact ⟨_, hexec, hpast, (congrArg BitVec.toNat (memByte_putByte_same u 0 _ _)).trans (toNat_a0Byte s),
      memByte_putByte_other u 0 _ _ humis, hread, hmem,
      fun k => (ac_advance _ 1 true k).trans ((sameAcs_putByte u 0 _ _ k).trans (hacs k)), hc,
      (hframe.trans (frame_putByte u 0 _ _)).plain_advance 1 true⟩

/-- The table's origin under either reading (D19, log 10). -/
theorem tableBase_eq (s : State) (base : Word) (hat : s.cfg.tableBase = .atPc → base = s.pc)
    (hafter : s.cfg.tableBase = .afterPc → base = s.pc + 1) : s.tableBase = base := by
  unfold State.tableBase
  split
  next h => exact (hat h).symm
  next h => exact (hafter h).symm

/-- Settles O43: a table word above 377 is jumped to, another one is loaded. -/
theorem translateByte : Obligations.TranslateByte := by
  intro s c t0 base hc hat hafter ht0
  have hchar : zext16 (s.getByte s.readBase s.a1) = c :=
    BitVec.eq_of_toNat_eq ((toNat_zext16 _).trans ((toNat_getByte s _ _).trans hc.symm))
  have hword : s.read (s.tableBase + zext16 (s.getByte s.readBase s.a1)) = t0 := by
    rw [hchar, tableBase_eq s base hat hafter, ht0]
  have hexec : exec .xtranslate s = .next
      (if 0o377#16 < t0 then ({ s with a1 := s.a1 + 1, a0 := c } : State).complete t0
        else ({ s with a1 := s.a1 + 1, a0 := t0 } : State).complete s.a3) := by
    rw [← hword, ← hchar]; rfl
  have hplain (v next : Word) : Plain s (({ s with a1 := s.a1 + 1, a0 := v } : State).complete next) :=
    (frame_registers s _ _ _ _ _).plain_complete next
  have habove : 0o377#16 < t0 ↔ 0o377 < t0.toNat := BitVec.lt_def
  by_cases hjump : 0o377 < t0.toNat
  · rw [hexec, if_pos (habove.2 hjump)]
    exact ⟨_, rfl, rfl, rfl, rfl, rfl, fun _ => rfl, hplain c t0, by rw [if_pos hjump]; exact ⟨rfl, rfl⟩⟩
  · rw [hexec, if_neg (fun h => hjump (habove.1 h))]
    exact ⟨_, rfl, rfl, rfl, rfl, rfl, fun _ => rfl, hplain t0 s.a3, by rw [if_neg hjump]; exact ⟨rfl, rfl⟩⟩

end Sys2Proof.Proofs

/-! The long instructions (spec/46_eis_nybble_loadstore_vjsr.md section 2, spec/48_eis_muldiv_move_trace.md sections 2, 3 and
5): what a loop that stores word by word leaves in memory, and the two nybble shifts, the two block moves and the table search
by it. -/

namespace Sys2Proof.Proofs

open Sys2Proof Sys2Proof.Machine Sys2Proof.Claims Sys2Proof.Laws

/-! ### No act falls between two iterations (R326) -/

theorem iteration_of_noGaps (s : State) (live : Bool) (h : NoGaps s) : (s.gap live).proceeds = s := by
  obtain ⟨hin, hserved⟩ := h
  rw [gap_none s live hin]
  simp only [State.proceeds, ← hserved]

theorem pauses_of_boundaryOnly (s : State) (h : s.cfg.longPoints = .boundaryOnly) : s.pauses = false := by
  unfold State.pauses
  rw [h]
  rfl

/-! ### Words stored one after another -/

/-- From `s` to `t` the words `place 0` to `place n` have taken the values `val`, and nothing else has changed but A0 and the
carry, with which the loops count. -/
structure Rewrites (s t : State) (n : Nat) (place val : Nat → Word) : Prop where
  frame : Frame s t
  acs : AcsBut .a0 s t
  pc : t.pc = s.pc
  inside : ∀ i, i ≤ n → t.read (place i) = val i
  outside : ∀ a, (∀ i, i ≤ n → a ≠ place i) → t.read a = s.read a
  bytes : ∀ b, (∀ i, i ≤ n → b / 2 ≠ (place i).toNat) → memByte t.mem b = memByte s.mem b

theorem read_write_ne (s : State) (a b v : Word) (hfull : FullAddresses s) (h : b ≠ a) : (s.write a v).read b = s.read b :=
  read_write_other s a b v (by rw [phys_full s hfull, phys_full s hfull]; exact h)

theorem memByte_write_ne (s : State) (a v : Word) (b : Nat) (hfull : FullAddresses s) (h : b / 2 ≠ a.toNat) :
    memByte (s.write a v).mem b = memByte s.mem b :=
  memByte_write_other s a v b (by rw [phys_full s hfull]; omega) (by rw [phys_full s hfull]; omega)

theorem rewrites_one (s : State) (v : Word) (place val : Nat → Word) (hfull : FullAddresses s) (hval : val 0 = v) :
    Rewrites s (s.write (place 0) v) 0 place val where
  frame := frame_write s _ v
  acs := fun k _ => ac_write s _ v k
  pc := rfl
  inside := fun i hi => by
    obtain rfl := Nat.le_zero.1 hi
    rw [hval]
    exact read_write_same s _ v
  outside := fun a ha => read_write_ne s _ a v hfull (ha 0 (Nat.le_refl 0))
  bytes := fun b hb => memByte_write_ne s _ v b hfull (hb 0 (Nat.le_refl 0))

/-- A word is stored, then others. -/
theorem Rewrites.after_write {s t : State} {n k : Nat} {v : Word} {place val place' val' : Nat → Word}
    (hfull : FullAddresses s) (h : Rewrites (s.write (place k) v) t n place' val') (hk : k ≤ n + 1) (hval : val k = v)
    (hother : ∀ i, i ≤ n → place' i ≠ place k)
    (hindex : ∀ i, i ≤ n + 1 → i ≠ k → ∃ j, j ≤ n ∧ place i = place' j ∧ val i = val' j)
    (hback : ∀ j, j ≤ n → ∃ i, i ≤ n + 1 ∧ place' j = place i) : Rewrites s t (n + 1) place val where
  frame := (frame_write s _ v).trans h.frame
  acs := fun r hr => (h.acs r hr).trans (ac_write s _ v r)
  pc := h.pc
  inside := fun i hi => by
    by_cases hik : i = k
    · rw [hik, hval, h.outside _ (fun j hj => (hother j hj).symm)]
      exact read_write_same s _ v
    · obtain ⟨j, hj, hplace, hvalue⟩ := hindex i hi hik
      rw [hplace, hvalue]
      exact h.inside j hj
  outside := fun a ha => by
    have hrest : ∀ j, j ≤ n → a ≠ place' j := fun j hj e => by
      obtain ⟨i, hi, hplace⟩ := hback j hj
      exact ha i hi (e.trans hplace)
    exact (h.outside a hrest).trans (read_write_ne s _ a v hfull (ha k hk))
  bytes := fun b hb => by
    have hrest : ∀ j, j ≤ n → b / 2 ≠ (place' j).toNat := fun j hj e => by
      obtain ⟨i, hi, hplace⟩ := hback j hj
      exact hb i hi (e.trans (congrArg BitVec.toNat hplace))
    exact (h.bytes b hrest).trans (memByte_write_ne s _ v b hfull (hb k hk))

/-- The last place is stored first. -/
theorem Rewrites.after_last {s t : State} {n : Nat} {v : Word} {place val : Nat → Word} (hfull : FullAddresses s)
    (h : Rewrites (s.write (place (n + 1)) v) t n place val) (hval : val (n + 1) = v)
    (hother : ∀ i, i ≤ n → place i ≠ place (n + 1)) : Rewrites s t (n + 1) place val :=
  h.after_write hfull (Nat.le_refl _) hval hother (fun i hi hne => ⟨i, by omega, rfl, rfl⟩)
    (fun j hj => ⟨j, by omega, rfl⟩)

/-- The first place is stored first. -/
theorem Rewrites.after_first {s t : State} {n : Nat} {v : Word} {place val : Nat → Word} (hfull : FullAddresses s)
    (h : Rewrites (s.write (place 0) v) t n (fun i => place (i + 1)) fun i => val (i + 1)) (hval : val 0 = v)
    (hother : ∀ i, i ≤ n → place (i + 1) ≠ place 0) : Rewrites s t (n + 1) place val :=
  h.after_write hfull (Nat.zero_le _) hval hother
    (fun i hi hne => ⟨i - 1, by omega, by rw [Nat.sub_add_cancel (by omega)], by rw [Nat.sub_add_cancel (by omega)]⟩)
    (fun j hj => ⟨j + 1, by omega, rfl⟩)

/-- A0 is no concern. -/
theorem Rewrites.of_counted {s t : State} {n : Nat} {x : Word} {place val : Nat → Word}
    (h : Rewrites { s with a0 := x } t n place val) : Rewrites s t n place val where
  frame := (frame_setAc s .a0 x).trans h.frame
  acs := fun k hk => (h.acs k hk).trans (ac_setAc_other s .a0 k x hk)
  pc := h.pc
  inside := h.inside
  outside := h.outside
  bytes := h.bytes

/-! ### Places counted from a base -/

theorem toNat_ofNat_of_le {i n : Nat} (hi : i ≤ n) (hn : n < 65536) : (BitVec.ofNat 16 i).toNat = i := by
  rw [BitVec.toNat_ofNat]; omega

theorem ofNat_inj_of_le {i j n : Nat} (hi : i ≤ n) (hj : j ≤ n) (hn : n < 65536)
    (h : BitVec.ofNat 16 i = BitVec.ofNat 16 j) : i = j := by
  have hnat := congrArg BitVec.toNat h
  rwa [toNat_ofNat_of_le hi hn, toNat_ofNat_of_le hj hn] at hnat

theorem add_ofNat_ne (base : Word) {i j n : Nat} (hi : i ≤ n) (hj : j ≤ n) (hn : n < 65536) (h : i ≠ j) :
    base + BitVec.ofNat 16 i ≠ base + BitVec.ofNat 16 j :=
  fun e => h (ofNat_inj_of_le hi hj hn ((BitVec.add_right_inj base).1 e))

theorem add_one_add_ofNat (base : Word) (i : Nat) : base + 1 + BitVec.ofNat 16 i = base + BitVec.ofNat 16 (i + 1) := by
  rw [Nat.add_comm i 1, BitVec.ofNat_add, ← BitVec.add_assoc]
  rfl

/-! ### NYBSL (R281) -/

theorem nybslLoop_succ (live : Bool) (base : Word) (i : Nat) (nyb : BitVec 4) (s : State) (h : NoGaps s) :
    nybslLoop live base (i + 1) nyb s =
      nybslLoop live base i (nybslOut base (i + 1) s) (nybslWord base (i + 1) nyb s) :=
  congrArg (nybslLoop live base i (nybslOut base (i + 1) s)) (iteration_of_noGaps (nybslWord base (i + 1) nyb s) live h)

/-- The word that word `i` becomes, `nyb` entering at word `n`. -/
def shiftedLeft (n : Nat) (nyb : BitVec 4) (w : Nat → Word) (i : Nat) : Word :=
  (w i).extractLsb' 0 12 ++ (if i = n then nyb else (w (i + 1)).extractLsb' 12 4 : BitVec 4)

theorem rewrites_nybslLoop (live : Bool) (base : Word) (n : Nat) (nyb : BitVec 4) (s : State) (hgaps : NoGaps s)
    (hfull : FullAddresses s) (hn : n < 65536) (w : Nat → Word) (hw : ∀ i, i ≤ n → w i = s.read (base + BitVec.ofNat 16 i)) :
    Rewrites s (nybslLoop live base n nyb s).2 n (fun i => base + BitVec.ofNat 16 i) (shiftedLeft n nyb w) ∧
      (nybslLoop live base n nyb s).1 = (w 0).extractLsb' 12 4 := by
  induction n generalizing nyb s with
  | zero =>
    refine ⟨rewrites_one s _ (fun i => base + BitVec.ofNat 16 i) _ hfull ?_, ?_⟩
    · rw [shiftedLeft, if_pos rfl, hw 0 (Nat.le_refl 0)]
    · rw [hw 0 (Nat.le_refl 0)]; rfl
  | succ n ih =>
    have hread : ∀ i, i ≤ n → w i = (nybslWord base (n + 1) nyb s).read (base + BitVec.ofNat 16 i) := fun i hi => by
      rw [hw i (by omega)]
      exact (read_write_ne s _ _ _ hfull (add_ofNat_ne base (n := n + 1) (by omega) (by omega) hn (by omega))).symm
    obtain ⟨hrest, hout⟩ := ih (nybslOut base (n + 1) s) (nybslWord base (n + 1) nyb s) hgaps hfull (by omega) hread
    rw [nybslLoop_succ live base n nyb s hgaps]
    have hval : ∀ i, i ≤ n → shiftedLeft n (nybslOut base (n + 1) s) w i = shiftedLeft (n + 1) nyb w i := fun i hi => by
      unfold shiftedLeft
      rw [if_neg (show i ≠ n + 1 by omega)]
      by_cases hin : i = n
      · rw [if_pos hin, hin, hw (n + 1) (Nat.le_refl _)]; rfl
      · rw [if_neg hin]
    refine ⟨Rewrites.after_last hfull ⟨hrest.frame, hrest.acs, hrest.pc, fun i hi => ?_, hrest.outside, hrest.bytes⟩ ?_ ?_, hout⟩
    · rw [hrest.inside i hi, hval i hi]
    · rw [shiftedLeft, if_pos rfl, hw (n + 1) (Nat.le_refl _)]
    · exact fun i hi => add_ofNat_ne base (n := n + 1) (by omega) (by omega) hn (by omega)

theorem toNat_shiftedLeft (n : Nat) (nyb : BitVec 4) (w : Nat → Word) (i : Nat) :
    (shiftedLeft n nyb w i).toNat =
      (w i).toNat % 4096 * 16 + (if i = n then nyb.toNat else (w (i + 1)).toNat / 4096) := by
  have hnext := (w (i + 1)).isLt
  unfold shiftedLeft
  rw [toNat_append_eq_add, BitVec.extractLsb'_toNat, Nat.shiftRight_zero]
  congr 1
  split
  · rfl
  · rw [BitVec.extractLsb'_toNat, Nat.shiftRight_eq_div_pow]; omega

theorem toNat_low_nybble (x : Word) : (x.extractLsb' 0 4).toNat = x.toNat % 16 := by
  rw [BitVec.extractLsb'_toNat, Nat.shiftRight_zero]

theorem toNat_top_nybble (x : Word) : (x.extractLsb' 12 4).toNat = x.toNat / 4096 := by
  have hx := x.isLt
  rw [BitVec.extractLsb'_toNat, Nat.shiftRight_eq_div_pow]; omega

/-- Settles O34: the loop goes from the last word to the first. -/
theorem nybbleShiftLeft : Obligations.NybbleShiftLeft := by
  intro s n w hgaps hfull hn hw
  have hlt : n < 65536 := by rw [hn]; exact s.a0.isLt
  obtain ⟨hloop, hout⟩ := rewrites_nybslLoop true s.a2 n (s.a1.extractLsb' 0 4) s hgaps hfull hlt w (fun i _ => hw i)
  rw [hn] at hloop hout
  refine ⟨_, rfl, fun i hi => ?_, ?_, ?_, ?_, hloop.acs .a2 Ac.noConfusion, hloop.acs .a3 Ac.noConfusion, ?_,
    (hloop.frame.trans (frame_registers _ _ _ _ _ _)).plainFree_drawn_advance 1 1 false⟩
  · rw [hn] at hi ⊢
    refine (congrArg BitVec.toNat (hloop.inside i hi)).trans ?_
    rw [toNat_shiftedLeft, toNat_low_nybble]
  · rw [hn]
    exact hloop.bytes
  · refine (congrArg (fun nyb : BitVec 4 => (nyb.setWidth 16 : Word).toNat) hout).trans ?_
    rw [BitVec.toNat_setWidth_of_le (by decide), toNat_top_nybble]
  · refine (toNat_append_eq_add (n := 12) _ _).trans ?_
    simp only [toNat_top_nybble, BitVec.toNat_ofNat, Nat.reducePow, Nat.zero_mod, Nat.add_zero]
    rfl
  · exact congrArg (· + 1) hloop.pc

/-! ### NYBSR (R282) -/

theorem nybsrLoop_succ (live : Bool) (n : Nat) (a : Word) (nyb : BitVec 4) (s : State) (h : NoGaps s) :
    nybsrLoop live (n + 1) a nyb s = nybsrLoop live n (a + 1) (nybsrOut a s) (nybsrWord a nyb s) :=
  congrArg (nybsrLoop live n (a + 1) (nybsrOut a s)) (iteration_of_noGaps (nybsrWord a nyb s) live h)

/-- The word that word `i` becomes, `nyb` entering at word 0. -/
def shiftedRight (nyb : BitVec 4) (w : Nat → Word) (i : Nat) : Word :=
  (if i = 0 then nyb else (w (i - 1)).extractLsb' 0 4 : BitVec 4) ++ (w i).extractLsb' 4 12

theorem rewrites_nybsrLoop (live : Bool) (n : Nat) (a : Word) (nyb : BitVec 4) (s : State) (hgaps : NoGaps s)
    (hfull : FullAddresses s) (hn : n < 65536) (w : Nat → Word) (hw : ∀ i, i ≤ n → w i = s.read (a + BitVec.ofNat 16 i)) :
    Rewrites s (nybsrLoop live n a nyb s).2 n (fun i => a + BitVec.ofNat 16 i) (shiftedRight nyb w) ∧
      (nybsrLoop live n a nyb s).1 = (w n).extractLsb' 0 4 := by
  have hzero : a + BitVec.ofNat 16 0 = a := BitVec.add_zero a
  have hfirst : w 0 = s.read a := by rw [hw 0 (Nat.zero_le n), hzero]
  induction n generalizing a nyb s w with
  | zero =>
    have hone := rewrites_one s (nyb ++ (w 0).extractLsb' 4 12) (fun i => a + BitVec.ofNat 16 i) (shiftedRight nyb w) hfull rfl
    simp only [hzero, hfirst] at hone
    exact ⟨hone, by rw [hfirst]; rfl⟩
  | succ n ih =>
    have hread : ∀ i, i ≤ n → w (i + 1) = (nybsrWord a nyb s).read (a + 1 + BitVec.ofNat 16 i) := fun i hi => by
      have hne := add_ofNat_ne a (i := i + 1) (j := 0) (n := n + 1) (by omega) (by omega) hn (by omega)
      rw [hzero] at hne
      rw [hw (i + 1) (by omega), add_one_add_ofNat]
      exact (read_write_ne s _ _ _ hfull hne).symm
    obtain ⟨hrest, hout⟩ := ih (a + 1) (nybsrOut a s) (nybsrWord a nyb s) hgaps hfull (by omega) (fun i => w (i + 1)) hread
      (BitVec.add_zero (a + 1)) (by rw [hread 0 (Nat.zero_le n), BitVec.add_zero])
    rw [nybsrLoop_succ live n a nyb s hgaps]
    have hval : ∀ i, shiftedRight (nybsrOut a s) (fun i => w (i + 1)) i = shiftedRight nyb w (i + 1) := fun i => by
      unfold shiftedRight
      rw [if_neg (Nat.succ_ne_zero i), Nat.add_sub_cancel]
      by_cases hi : i = 0
      · rw [if_pos hi, hi, hfirst]; rfl
      · simp only [if_neg hi, Nat.sub_add_cancel (Nat.one_le_iff_ne_zero.2 hi)]
    have hstored : nybsrWord a nyb s = s.write (a + BitVec.ofNat 16 0) (nyb ++ (w 0).extractLsb' 4 12) := by
      rw [hzero, hfirst]; rfl
    simp only [add_one_add_ofNat, funext hval] at hrest
    rw [hstored] at hrest ⊢
    exact ⟨Rewrites.after_first hfull hrest rfl
      (fun i hi => add_ofNat_ne a (n := n + 1) (by omega) (by omega) hn (by omega)), hstored ▸ hout⟩

theorem toNat_shiftedRight (nyb : BitVec 4) (w : Nat → Word) (i : Nat) :
    (shiftedRight nyb w i).toNat =
      (if i = 0 then nyb.toNat else (w (i - 1)).toNat % 16) * 4096 + (w i).toNat / 16 := by
  have hword := (w i).isLt
  have hin : (if i = 0 then nyb else (w (i - 1)).extractLsb' 0 4 : BitVec 4).toNat =
      if i = 0 then nyb.toNat else (w (i - 1)).toNat % 16 := by
    split
    · rfl
    · exact toNat_low_nybble _
  unfold shiftedRight
  rw [toNat_append_eq_add, hin, BitVec.extractLsb'_toNat, Nat.shiftRight_eq_div_pow]
  omega

/-- Settles O35: the loop goes from the first word to the last. -/
theorem nybbleShiftRight : Obligations.NybbleShiftRight := by
  intro s n w hgaps hfull hn hw
  have hlt : n < 65536 := by rw [hn]; exact s.a0.isLt
  obtain ⟨hloop, hout⟩ := rewrites_nybsrLoop true n s.a2 (s.a1.extractLsb' 0 4) s hgaps hfull hlt w (fun i _ => hw i)
  rw [hn] at hloop hout
  refine ⟨_, rfl, fun i hi => ?_, ?_, ?_, rfl, rfl, hloop.acs .a3 Ac.noConfusion, ?_,
    (hloop.frame.trans (frame_registers _ _ _ _ _ _)).plainFree_drawn_advance 1 1 false⟩
  · rw [hn] at hi
    refine (congrArg BitVec.toNat (hloop.inside i hi)).trans ?_
    rw [toNat_shiftedRight, toNat_low_nybble]
  · rw [hn]
    exact hloop.bytes
  · refine (congrArg (fun nyb : BitVec 4 => decide (5 ≤ nyb.toNat)) hout).trans ?_
    rw [toNat_low_nybble, ← hn]
  · exact congrArg (· + 1) hloop.pc

/-! ### MOVEWORDS and RMOVWORDS (R322, R323) -/

/-- One word of a block move, `op` leading from a base and the count to a place. -/
def copyWord (op : Word → Word → Word) (s : State) : State :=
  { s.write (op s.a2 s.a0) (s.read (op s.a1 s.a0)) with a0 := s.a0 - 1 }

theorem moveWord_eq_copyWord : moveWord = copyWord (· + ·) := rfl
theorem rmoveWord_eq_copyWord : rmoveWord = copyWord (· - ·) := rfl

theorem moveLoop_succ (live : Bool) (word : State → State) (n : Nat) (s : State) (h : NoGaps (word s))
    (hcfg : (word s).cfg.longPoints = .boundaryOnly) : moveLoop live word (n + 1) s = moveLoop live word n (word s) := by
  have hgap : (word s).gap live = word s := gap_none _ live h.1
  have hnext := iteration_of_noGaps (word s) live h
  rw [hgap] at hnext
  simp only [moveLoop, hgap, pauses_of_boundaryOnly _ hcfg, Bool.and_false, Bool.false_eq_true, if_false, hnext]

theorem rewrites_moveLoop (live : Bool) (op : Word → Word → Word) (n : Nat) (s : State) (hgaps : NoGaps s)
    (hfull : FullAddresses s) (hcfg : s.cfg.longPoints = .boundaryOnly) (hn : n < 65536) (hcount : s.a0 = BitVec.ofNat 16 n)
    (hinj : ∀ i j, i ≤ n → j ≤ n → i ≠ j → op s.a2 (BitVec.ofNat 16 i) ≠ op s.a2 (BitVec.ofNat 16 j))
    (hsafe : ∀ i j, i < j → j ≤ n → op s.a1 (BitVec.ofNat 16 i) ≠ op s.a2 (BitVec.ofNat 16 j)) :
    Rewrites s (moveLoop live (copyWord op) n s).1 n (fun i => op s.a2 (BitVec.ofNat 16 i))
        (fun i => s.read (op s.a1 (BitVec.ofNat 16 i))) ∧
      (moveLoop live (copyWord op) n s).2 = true ∧ (moveLoop live (copyWord op) n s).1.a0 = 0o177777#16 := by
  induction n generalizing s with
  | zero =>
    have hone := rewrites_one s (s.read (op s.a1 s.a0)) (fun i => op s.a2 (BitVec.ofNat 16 i))
      (fun i => s.read (op s.a1 (BitVec.ofNat 16 i))) hfull (by rw [hcount])
    rw [← hcount] at hone
    refine ⟨⟨hone.frame.trans (frame_setAc _ .a0 _), fun k hk => (ac_setAc_other _ .a0 k _ hk).trans (hone.acs k hk), rfl,
      hone.inside, hone.outside, hone.bytes⟩, rfl, ?_⟩
    show s.a0 - 1 = _
    rw [hcount]
    rfl
  | succ n ih =>
    have hnext : s.a0 - 1 = BitVec.ofNat 16 n := by
      rw [hcount]
      rw [BitVec.ofNat_add]
      exact BitVec.add_sub_cancel _ _
    have hread : ∀ i, i ≤ n → (copyWord op s).read (op s.a1 (BitVec.ofNat 16 i)) = s.read (op s.a1 (BitVec.ofNat 16 i)) :=
      fun i hi => read_write_ne s _ _ _ hfull (by rw [hcount]; exact hsafe i (n + 1) (by omega) (Nat.le_refl _))
    obtain ⟨hrest, hfinished, hend⟩ := ih (copyWord op s) hgaps hfull hcfg (by omega) hnext
      (fun i j hi hj => hinj i j (by omega) (by omega)) (fun i j hij hj => hsafe i j hij (by omega))
    rw [moveLoop_succ live (copyWord op) n s hgaps hcfg]
    refine ⟨Rewrites.after_last (v := s.read (op s.a1 s.a0)) hfull ?_ (by rw [hcount])
      (fun i hi => hinj i (n + 1) (by omega) (Nat.le_refl _) (by omega)), hfinished, hend⟩
    rw [← hcount]
    refine Rewrites.of_counted (x := s.a0 - 1) ⟨hrest.frame, hrest.acs, hrest.pc, fun i hi => ?_, hrest.outside, hrest.bytes⟩
    exact (hrest.inside i hi).trans (hread i hi)

/-- A whole block move. -/
theorem moveRun_copies (i : Instr) (op : Word → Word → Word) (s : State) (n : Nat)
    (hexec : exec i s = .next (moveRun true (copyWord op) s)) (hgaps : NoGaps s) (hfull : FullAddresses s)
    (hcfg : s.cfg.longPoints = .boundaryOnly) (hn : n = s.a0.toNat)
    (hinj : ∀ i j, i ≤ n → j ≤ n → i ≠ j → op s.a2 (BitVec.ofNat 16 i) ≠ op s.a2 (BitVec.ofNat 16 j))
    (hsafe : ∀ i j, i < j → j ≤ n → op s.a1 (BitVec.ofNat 16 i) ≠ op s.a2 (BitVec.ofNat 16 j)) :
    ∃ t, exec i s = .next t ∧
      (∀ i, i ≤ n → t.read (op s.a2 (BitVec.ofNat 16 i)) = s.read (op s.a1 (BitVec.ofNat 16 i))) ∧
      (∀ b, (∀ i, i ≤ n → b / 2 ≠ (op s.a2 (BitVec.ofNat 16 i)).toNat) → memByte t.mem b = memByte s.mem b) ∧
      t.a0 = 0o177777#16 ∧ AcsBut .a0 s t ∧ t.c = false ∧ t.pc = s.pc + 1 ∧ Plain s t := by
  obtain ⟨hloop, hfinished, hend⟩ := rewrites_moveLoop true op n s hgaps hfull hcfg (by rw [hn]; exact s.a0.isLt)
    (by rw [hn, BitVec.ofNat_toNat, BitVec.setWidth_eq]) hinj hsafe
  have hrun : moveRun true (copyWord op) s =
      ({ (moveLoop true (copyWord op) n s).1 with c := false } : State).advance 1 false := by
    unfold moveRun
    rw [← hn]
    exact if_pos hfinished
  rw [hrun] at hexec
  exact ⟨_, hexec, hloop.inside, hloop.bytes, hend,
    fun k hk => (ac_advance _ 1 false k).trans ((ac_with_c _ false k).trans (hloop.acs k hk)), rfl,
    congrArg (· + 1) hloop.pc, (hloop.frame.trans (frame_registers _ _ _ _ _ _)).plain_advance 1 false⟩

/-- Settles O45: in either case no word is stored over before it is read. -/
theorem blockMoves : Obligations.BlockMoves := by
  intro s n hgaps hfull hcfg hn
  have hlt : n < 65536 := by rw [hn]; exact s.a0.isLt
  refine ⟨fun harea => ?_, fun harea => ?_⟩
  · refine moveRun_copies .movewords (· + ·) s n rfl hgaps hfull hcfg hn
      (fun i j hi hj hij => add_ofNat_ne s.a2 hi hj hlt hij) (fun i j hij hj e => ?_)
    rcases harea with hapart | ⟨hup, hend⟩
    · exact hapart j i hj (by omega) e.symm
    · have hnat := congrArg BitVec.toNat e
      simp only [BitVec.toNat_add, BitVec.toNat_ofNat] at hnat
      omega
  · refine moveRun_copies .rmovwords (· - ·) s n rfl hgaps hfull hcfg hn
      (fun i j hi hj hij e => hij (ofNat_inj_of_le hi hj hlt ((BitVec.sub_right_inj s.a2).1 e))) (fun i j hij hj e => ?_)
    rcases harea with hapart | ⟨hdown, hend⟩
    · exact hapart j i hj (by omega) e.symm
    · have h1 := s.a1.isLt
      have hnat := congrArg BitVec.toNat e
      simp only [BitVec.toNat_sub, BitVec.toNat_ofNat] at hnat
      omega

/-! ### TABLSEARCH (R324) -/

theorem searchLoop_found (live : Bool) (n : Nat) (s : State) (h : s.read s.a2 = s.a0) :
    searchLoop live (n + 1) s = .found s := by
  unfold searchLoop
  rw [if_pos (by rw [h]; exact beq_self_eq_true _)]

theorem searchLoop_missed (live : Bool) (n : Nat) (s : State) (h : s.read s.a2 ≠ s.a0)
    (hend : s.a3.toNat ≤ (s.a2 + s.a1).toNat) : searchLoop live (n + 1) s = .missed { s with a2 := s.a2 + s.a1 } := by
  unfold searchLoop
  rw [if_neg (by simpa using h)]
  exact if_pos (BitVec.le_def.2 hend)

theorem searchLoop_next (live : Bool) (n : Nat) (s : State) (hgaps : NoGaps s) (hcfg : s.cfg.longPoints = .boundaryOnly)
    (h : s.read s.a2 ≠ s.a0) (hbelow : (s.a2 + s.a1).toNat < s.a3.toNat) :
    searchLoop live (n + 1) s = searchLoop live n { s with a2 := s.a2 + s.a1 } := by
  have hgap : ({ s with a2 := s.a2 + s.a1 } : State).gap (live && n != 0) = { s with a2 := s.a2 + s.a1 } :=
    gap_none { s with a2 := s.a2 + s.a1 } _ hgaps.1
  have hnext := iteration_of_noGaps { s with a2 := s.a2 + s.a1 } (live && n != 0) hgaps
  rw [hgap] at hnext
  have hon : ¬ s.a3 ≤ s.a2 + s.a1 := fun hle => absurd (BitVec.le_def.1 hle) (by omega)
  conv_lhs => unfold searchLoop
  rw [if_neg (by simpa using h)]
  simp only [hgap, if_neg hon, pauses_of_boundaryOnly { s with a2 := s.a2 + s.a1 } hcfg, Bool.and_false,
    Bool.false_eq_true, if_false, hnext]

theorem place_succ (s : State) (place : Nat → Word) (hplace : ∀ j, place j = s.a2 + BitVec.ofNat 16 j * s.a1) (k : Nat) :
    place k + s.a1 = place (k + 1) := by
  rw [hplace, hplace, BitVec.add_assoc, BitVec.ofNat_add, BitVec.add_mul]
  congr 2
  exact (BitVec.one_mul s.a1).symm

/-- After `k` comparisons that neither find nor end the search stands at the `k`-th place. -/
theorem searchLoop_skip (live : Bool) (m k : Nat) (s : State) (place : Nat → Word) (hgaps : NoGaps s)
    (hcfg : s.cfg.longPoints = .boundaryOnly) (hplace : ∀ j, place j = s.a2 + BitVec.ofNat 16 j * s.a1)
    (hskip : ∀ j, j < k → s.read (place j) ≠ s.a0 ∧ (place (j + 1)).toNat < s.a3.toNat) :
    searchLoop live (m + k) s = searchLoop live m { s with a2 := place k } := by
  induction k generalizing m with
  | zero =>
    have h0 : place 0 = s.a2 := by rw [hplace]; exact (congrArg (s.a2 + ·) (BitVec.zero_mul (x := s.a1))).trans (BitVec.add_zero _)
    rw [h0]
    rfl
  | succ k ih =>
    obtain ⟨hne, hbelow⟩ := hskip k (Nat.lt_succ_self k)
    have hstep := place_succ s place hplace k
    have hcount : m + (k + 1) = m + 1 + k := by omega
    rw [hcount, ih (m + 1) (fun j hj => hskip j (by omega)),
      searchLoop_next live m { s with a2 := place k } hgaps hcfg hne (by rw [← hstep] at hbelow; exact hbelow)]
    exact congrArg (fun a => searchLoop live m { s with a2 := a }) hstep

/-- A search with a step of 0 stands still. -/
theorem searchLoop_endless (live : Bool) (n : Nat) (s : State) (hgaps : NoGaps s) (hcfg : s.cfg.longPoints = .boundaryOnly)
    (hstep : s.a1 = 0) (h : s.read s.a2 ≠ s.a0) (hbelow : s.a2.toNat < s.a3.toNat) : searchLoop live n s = .more s := by
  have hsame : s.a2 + s.a1 = s.a2 := by rw [hstep]; exact BitVec.add_zero _
  induction n with
  | zero => rfl
  | succ n ih =>
    rw [searchLoop_next live n s hgaps hcfg h (by rw [hsame]; exact hbelow), hsame]
    exact ih

/-- A whole search that reaches the `k`-th place. -/
theorem searchRun_skip (s : State) (k : Nat) (place : Nat → Word) (hgaps : NoGaps s)
    (hcfg : s.cfg.longPoints = .boundaryOnly) (hplace : ∀ j, place j = s.a2 + BitVec.ofNat 16 j * s.a1) (hk : k < 65536)
    (hskip : ∀ j, j < k → s.read (place j) ≠ s.a0 ∧ (place (j + 1)).toNat < s.a3.toNat) :
    searchRun true s = (searchLoop true (65535 - k + 1) { s with a2 := place k }).state := by
  have hsteps : searchSteps = 65535 - k + 1 + k := by unfold searchSteps; omega
  unfold searchRun
  rw [hsteps, searchLoop_skip true _ k s place hgaps hcfg hplace hskip]

/-- Settles O46: found, missed, or a step of 0. -/
theorem tableSearch : Obligations.TableSearch := by
  intro s place hgaps hcfg hplace
  have hplain (a : Word) (skips : Bool) : Plain s (({ s with a2 := a } : State).advance 1 skips) :=
    (frame_registers s _ _ _ _ _).plain_advance 1 skips
  refine ⟨fun k hk hskip hfound => ?_, fun k hk hskip hne hend => ?_, fun hstep hne hbelow => ?_⟩
  · have hexec : exec .tablsearch s = .next (({ s with a2 := place k } : State).advance 1 true) := by
      refine congrArg Host.Outcome.next ((searchRun_skip s k place hgaps hcfg hplace hk hskip).trans ?_)
      rw [searchLoop_found true _ { s with a2 := place k } hfound]
      rfl
    exact ⟨_, hexec, rfl, BitVec.add_assoc s.pc 1 1, acsBut_a2 rfl rfl rfl, rfl, fun _ => rfl, hplain _ true⟩
  · have hstep := place_succ s place hplace k
    have hexec : exec .tablsearch s = .next (({ s with a2 := place (k + 1) } : State).advance 1 false) := by
      refine congrArg Host.Outcome.next ((searchRun_skip s k place hgaps hcfg hplace hk hskip).trans ?_)
      rw [searchLoop_missed true _ { s with a2 := place k } hne (by rw [← hstep] at hend; exact hend), ← hstep]
      rfl
    exact ⟨_, hexec, rfl, rfl, acsBut_a2 rfl rfl rfl, rfl, fun _ => rfl, hplain _ false⟩
  · have hexec : exec .tablsearch s = .next (s.goesOn .search) := by
      refine congrArg Host.Outcome.next ?_
      unfold searchRun
      rw [searchLoop_endless true searchSteps s hgaps hcfg hstep hne hbelow]
      rfl
    exact ⟨_, hexec, rfl, rfl⟩

end Sys2Proof.Proofs

/-! TRACE (spec/48_eis_muldiv_move_trace.md section 4): the remote instruction is run as it is run elsewhere, and the end of
TRACE stores the pc that it leaves. -/

namespace Sys2Proof.Proofs

open Sys2Proof Sys2Proof.Machine Sys2Proof.Claims Sys2Proof.Laws

/-! ### The end of TRACE (R325) -/

theorem exec_trace_of_remote (a : Word) (r : Instr) (s u : State) (hr : r = s.remoteInstr a)
    (hremote : remote r (s.traceStart a) = .next u) (hhung : u.hung = none) :
    exec (.trace a) s = .next u.traceEnd := by
  subst hr
  simp only [exec, execTrace, hremote, hhung]

theorem exec_trace_of_refused (a : Word) (r : Instr) (s : State) (e : Refusal) (hr : r = s.remoteInstr a)
    (hremote : remote r (s.traceStart a) = .refused e) : exec (.trace a) s = .refused e := by
  subst hr
  simp only [exec, execTrace, hremote]

/-- A remote instruction that completes in TRACE as it does by itself. -/
theorem traceDone_of_remote (a : Word) (r : Instr) (s u : State) (hr : r = s.remoteInstr a)
    (hexec : exec r (s.traceStart a) = .next u) (hremote : remote r (s.traceStart a) = .next u) (hhung : u.hung = none)
    (hxpc : u.xpc = s.pc + 1) : TraceDone a r s := by
  have htrace := exec_trace_of_remote a r s u hr hremote hhung
  have hframe := frame_write u u.xpc u.pc
  refine ⟨u, u.traceEnd, hexec, htrace, ?_, ?_, hxpc, fun k => by cases k <;> rfl, rfl, ?_, hframe.flags, hframe.setting,
    ⟨rfl, rfl⟩, rfl, rfl, rfl⟩
  · rw [← hxpc]
    exact read_write_same u u.xpc u.pc
  · refine (congrArg (· + 1) hxpc).trans ?_
    exact BitVec.add_assoc s.pc 1 1
  · rw [← hxpc]
    exact memoryBut_write u u.xpc u.pc

/-! ### Remote instructions of one step -/

theorem remote_of_oneStep (i : Instr) (s : State) (h : oneStep i = true) : remote i s = exec i s := by
  refine remote_eq_exec i s (Bool.eq_false_iff.2 fun hlong => ?_) (fun a hi => ?_) (fun ac f hi => ?_)
  · cases i with
    | nybsl | nybsr | movewords | rmovwords | tablsearch => exact absurd h Bool.false_ne_true
    | _ => exact absurd hlong Bool.false_ne_true
  · rw [hi] at h
    exact absurd h Bool.false_ne_true
  · rw [hi] at h
    exact absurd h Bool.false_ne_true

theorem traceDone_of_oneStep (a : Word) (r : Instr) (s : State) (hhung : s.hung = none) (hr : r = s.remoteInstr a)
    (h : oneStep r = true) : TraceDone a r s := by
  obtain ⟨u, hexec, hdone⟩ := completesAt_of_oneStep r (s.traceStart a) h
  exact traceDone_of_remote a r s u hr hexec ((remote_of_oneStep r _ h).trans hexec) (hdone.hung.trans hhung) hdone.xpc

/-! ### Remote memory references -/

theorem traceDone_of_memRef (a : Word) (r : Instr) (s s1 : State) (op : MemOp) (m : MemRef) (e : Word)
    (hhung : s.hung = none) (hr : r = s.remoteInstr a) (hexec : exec r (s.traceStart a) = .next (memRef op m (s.traceStart a)))
    (hremote : remote r (s.traceStart a) = .next (memRef op m (s.traceStart a))) (hreach : Reaches (s.traceStart a) m e s1) :
    TraceDone a r s := by
  have hrun := memRef_reaches op m _ s1 e hreach
  have hdone := completed_perform (keeps_refl s1) op e
  have hframe := frame_reaches _ s1 m e hreach
  obtain ⟨-, hhung1, -⟩ := hframe.setting
  rw [hrun] at hexec hremote
  exact traceDone_of_remote a r s _ hr hexec hremote ((hdone.hung.trans hhung1).trans hhung) (hdone.xpc.trans hframe.xpc)

/-! ### Remote long instructions: without gaps they run in TRACE as elsewhere (log 33) -/

theorem nybslLoop_live (base : Word) (n : Nat) (nyb : BitVec 4) (s : State) (h : NoGaps s) :
    nybslLoop true base n nyb s = nybslLoop false base n nyb s := by
  induction n generalizing nyb s with
  | zero => rfl
  | succ n ih =>
    rw [nybslLoop_succ true base n nyb s h, nybslLoop_succ false base n nyb s h]
    exact ih _ _ h

theorem nybsrLoop_live (n : Nat) (a : Word) (nyb : BitVec 4) (s : State) (h : NoGaps s) :
    nybsrLoop true n a nyb s = nybsrLoop false n a nyb s := by
  induction n generalizing a nyb s with
  | zero => rfl
  | succ n ih =>
    rw [nybsrLoop_succ true n a nyb s h, nybsrLoop_succ false n a nyb s h]
    exact ih _ _ _ h

theorem moveLoop_live (op : Word → Word → Word) (n : Nat) (s : State) (h : NoGaps s)
    (hcfg : s.cfg.longPoints = .boundaryOnly) : moveLoop true (copyWord op) n s = moveLoop false (copyWord op) n s := by
  induction n generalizing s with
  | zero => rfl
  | succ n ih =>
    rw [moveLoop_succ true (copyWord op) n s h hcfg, moveLoop_succ false (copyWord op) n s h hcfg]
    exact ih _ h hcfg

theorem moveRun_live (op : Word → Word → Word) (s : State) (h : NoGaps s) (hcfg : s.cfg.longPoints = .boundaryOnly) :
    moveRun true (copyWord op) s = moveRun false (copyWord op) s := by
  unfold moveRun
  rw [moveLoop_live op _ s h hcfg]

theorem searchLoop_live (n : Nat) (s : State) (h : NoGaps s) (hcfg : s.cfg.longPoints = .boundaryOnly) :
    searchLoop true n s = searchLoop false n s := by
  induction n generalizing s with
  | zero => rfl
  | succ n ih =>
    by_cases hfound : s.read s.a2 = s.a0
    · rw [searchLoop_found true n s hfound, searchLoop_found false n s hfound]
    · by_cases hend : s.a3.toNat ≤ (s.a2 + s.a1).toNat
      · rw [searchLoop_missed true n s hfound hend, searchLoop_missed false n s hfound hend]
      · rw [searchLoop_next true n s h hcfg hfound (Nat.not_le.1 hend),
          searchLoop_next false n s h hcfg hfound (Nat.not_le.1 hend)]
        exact ih _ h hcfg

theorem longRun_live (i : Instr) (s : State) (h : NoGaps s) (hcfg : s.cfg.longPoints = .boundaryOnly) :
    longRun true i s = longRun false i s := by
  unfold longRun
  split
  · simp only [nybslRun, nybslLoop_live _ _ _ s h]
  · simp only [nybsrRun, nybsrLoop_live _ _ _ s h]
  · exact moveRun_live (· + ·) s h hcfg
  · exact moveRun_live (· - ·) s h hcfg
  · simp only [searchRun, searchLoop_live _ s h hcfg]

theorem traceDone_of_isLong (a : Word) (r : Instr) (s u : State) (hr : r = s.remoteInstr a) (hlong : isLong r = true)
    (hgaps : NoGaps s) (hcfg : s.cfg.longPoints = .boundaryOnly) (hexec : exec r (s.traceStart a) = .next u)
    (hhung : u.hung = none) : TraceDone a r s := by
  have hu : longRun true r (s.traceStart a) = u :=
    Host.Outcome.next.inj ((exec_of_isLong r _ hlong).symm.trans hexec)
  have hremote : remote r (s.traceStart a) = .next u := by
    rw [remote_of_isLong r _ hlong, ← longRun_live r (s.traceStart a) hgaps hcfg, hu]
  have hxpc : u.xpc = s.pc + 1 := by
    rcases longRun_outcome true r (s.traceStart a) with hdone | hon
    · rw [hu] at hdone
      exact hdone.xpc
    · rw [hu] at hon
      have hsome := hon.hung
      rw [hhung] at hsome
      exact absurd hsome Bool.false_ne_true
  exact traceDone_of_remote a r s u hr hexec hremote hhung hxpc

/-- Settles O47: the remote instructions of one step, the memory references, the long ones, and the two that are refused. -/
theorem traceRunsRemote : Obligations.TraceRunsRemote := by
  intro s a r hhung hr
  refine ⟨traceDone_of_oneStep a r s hhung hr, fun m e s1 hop hreach => ?_, fun hmem hgaps hcfg u hexec hdone => ?_,
    fun b hb => ?_, fun ac f hf => ?_⟩
  · have htrace (op : MemOp) (hexec : exec r (s.traceStart a) = .next (memRef op m (s.traceStart a)))
        (hremote : remote r (s.traceStart a) = .next (memRef op m (s.traceStart a))) : TraceDone a r s :=
      traceDone_of_memRef a r s s1 op m e hhung hr hexec hremote hreach
    rcases hop with hop | ⟨ac, rfl | rfl⟩
    · simp only [List.mem_cons, List.not_mem_nil, or_false] at hop
      rcases hop with rfl | rfl | rfl | rfl
      · exact htrace .jmp rfl rfl
      · exact htrace .jsr rfl rfl
      · exact htrace .isz rfl rfl
      · exact htrace .dsz rfl rfl
    · exact htrace (.lda ac) rfl rfl
    · exact htrace (.sta ac) rfl rfl
  · have hlong : isLong r = true := by
      simp only [List.mem_cons, List.not_mem_nil, or_false] at hmem
      rcases hmem with h | h | h | h | h
      all_goals rw [h]; rfl
    exact traceDone_of_isLong a r s u hr hlong hgaps hcfg hexec hdone
  · exact exec_trace_of_refused a r s .tracedTrace hr (by rw [hb]; rfl)
  · exact exec_trace_of_refused a r s .tracedHalt hr (by rw [hf]; rfl)

end Sys2Proof.Proofs
